-- ==== Sys2Proof/Word.lean ====
section
/-! DEFINITION. The word types of the machine and the names of its registers and keys.

Spec: `10_state.md` R30 (8-bit registers), R33 and R34 (16-bit `I` and `PC`), `30_encoding.md` R101, R102
(fields), `45_timers_input.md` R280 (key codes 0..15). Every value is unsigned (`00_scope.md` R7). -/

namespace Sys2Proof

/-- An 8-bit value: a general register, a timer, a byte of memory (R30, R38, R40). -/
abbrev Byte := BitVec 8

/-- A 16-bit value: an opcode, `I`, `PC`, a stack entry (R33, R34, R35, R100). -/
abbrev Word := BitVec 16

/-- The 12-bit immediate `nnn` (R101). -/
abbrev Imm12 := BitVec 12

/-- The number of a general register, `V0`..`VF` (R30). -/
abbrev Reg := Fin 16

/-- The 4-bit sprite height of `Dxyn`, a count of rows (R102). -/
abbrev Height := Fin 16

/-- A logical key code, `0..15` (R280). -/
abbrev Key := Fin 16

/-- `VF`, register 15, which is also the flag register (R31). -/
abbrev VF : Reg := 15

/-- The font glyphs: 16 glyphs of 5 bytes each, a parameter of the loader (R352, R353). -/
abbrev Font := Vector (Vector Byte 5) 16

end Sys2Proof
end

