-- ==== Sys2Proof/Syntax.lean ====
section
/-! DEFINITION. The instruction set: one constructor for each of the 34 rows of `opcode_table.json`
(`00_scope.md` R2). Operands have exactly the values their fields admit (`30_encoding.md` R101, R102).

A bit that the decoder does not examine is no operand: `00E0`/`00EE` bits 11..8, `5xy0`/`9xy0` bits 3..0, and
`y` of `8xy6`/`8xyE`, since words that differ only there "decode to the same instruction with the same operand
values" (R107; assumption log 12). -/

namespace Sys2Proof

/-- One instruction. The comment gives its pattern and the rule that states its meaning. -/
inductive Instr where
  /-- `00E0` CLS (R261). -/
  | cls
  /-- `00EE` RET (R234). -/
  | ret
  /-- `1nnn` JP nnn (R235). -/
  | jp (nnn : Imm12)
  /-- `2nnn` CALL nnn (R236). -/
  | call (nnn : Imm12)
  /-- `3xkk` SE Vx, kk (R237). -/
  | seImm (x : Reg) (kk : Byte)
  /-- `4xkk` SNE Vx, kk (R238). -/
  | sneImm (x : Reg) (kk : Byte)
  /-- `5xy0` SE Vx, Vy (R239). -/
  | seReg (x y : Reg)
  /-- `6xkk` LD Vx, kk (R173). -/
  | ldImm (x : Reg) (kk : Byte)
  /-- `7xkk` ADD Vx, kk (R174). -/
  | addImm (x : Reg) (kk : Byte)
  /-- `8xy0` LD Vx, Vy (R175). -/
  | ldReg (x y : Reg)
  /-- `8xy1` OR Vx, Vy (R176). -/
  | orReg (x y : Reg)
  /-- `8xy2` AND Vx, Vy (R177). -/
  | andReg (x y : Reg)
  /-- `8xy3` XOR Vx, Vy (R178). -/
  | xorReg (x y : Reg)
  /-- `8xy4` ADD Vx, Vy (R179). -/
  | addReg (x y : Reg)
  /-- `8xy5` SUB Vx, Vy (R180). -/
  | subReg (x y : Reg)
  /-- `8xy6` SHR Vx (R181). -/
  | shr (x : Reg)
  /-- `8xy7` SUBN Vx, Vy (R182). -/
  | subn (x y : Reg)
  /-- `8xyE` SHL Vx (R183). -/
  | shl (x : Reg)
  /-- `9xy0` SNE Vx, Vy (R240). -/
  | sneReg (x y : Reg)
  /-- `Annn` LD I, nnn (R201). -/
  | ldI (nnn : Imm12)
  /-- `Bnnn` JP V0, nnn (R241). -/
  | jpV0 (nnn : Imm12)
  /-- `Cxkk` RND Vx, kk (R185). -/
  | rnd (x : Reg) (kk : Byte)
  /-- `Dxyn` DRW Vx, Vy, n (R262). -/
  | drw (x y : Reg) (n : Height)
  /-- `Ex9E` SKP Vx (R281). -/
  | skp (x : Reg)
  /-- `ExA1` SKNP Vx (R282). -/
  | sknp (x : Reg)
  /-- `Fx07` LD Vx, DT (R283). -/
  | ldVxDt (x : Reg)
  /-- `Fx0A` LD Vx, K (R284). -/
  | ldVxKey (x : Reg)
  /-- `Fx15` LD DT, Vx (R285). -/
  | ldDt (x : Reg)
  /-- `Fx18` LD ST, Vx (R286). -/
  | ldSt (x : Reg)
  /-- `Fx1E` ADD I, Vx (R202). -/
  | addI (x : Reg)
  /-- `Fx29` LD F, Vx (R203). -/
  | ldFont (x : Reg)
  /-- `Fx33` LD B, Vx (R204). -/
  | ldBcd (x : Reg)
  /-- `Fx55` LD [I], Vx (R205). -/
  | storeRegs (x : Reg)
  /-- `Fx65` LD Vx, [I] (R206). -/
  | loadRegs (x : Reg)
  deriving DecidableEq, Repr

end Sys2Proof
end

