-- ==== Sys2Proof/Decode.lean ====
section
/-! DEFINITION. The fields of an opcode, the opcode table, the decoder (total on any bytes, rejecting by name)
and the encoder.

Spec: `30_encoding.md` R100 to R107, R110; `20_memory.md` R76 (big-endian words); `40_cycle.md` R143. -/

namespace Sys2Proof

/-- `w[hi:lo]`, the field of `w` from bit `hi` down to bit `lo`, read as an unsigned number (R7). -/
def field (w : Word) (hi lo : Nat) : Nat := w.toNat / 2 ^ lo % 2 ^ (hi + 1 - lo)

/-- `op = w[15:12]`, the instruction family (R101). -/
def opField (w : Word) : Nat := field w 15 12

/-- `x = w[11:8]`, a register index (R101). -/
def xField (w : Word) : Reg := Fin.ofNat 16 (field w 11 8)

/-- `y = w[7:4]`, a register index (R101). -/
def yField (w : Word) : Reg := Fin.ofNat 16 (field w 7 4)

/-- `n = w[3:0]`, the sprite height and the selector of family 8 (R101). -/
def nField (w : Word) : Height := Fin.ofNat 16 (field w 3 0)

/-- `kk = w[7:0]`, the 8-bit immediate and the selector of families 0, E and F (R101). -/
def kkField (w : Word) : Byte := BitVec.ofNat 8 (field w 7 0)

/-- `nnn = w[11:0]`, the 12-bit address (R101). -/
def nnnField (w : Word) : Imm12 := BitVec.ofNat 12 (field w 11 0)

/-- Why bytes are no instruction. -/
inductive DecodeError where
  /-- The word matches no row of the opcode table (R106); `w` is the payload of the diagnostic (R146). -/
  | unknownOpcode (w : Word)
  /-- Fewer than the two bytes that every instruction takes (R100). -/
  | truncated
  deriving DecidableEq, Repr

/-- Decode one word: dispatch "by op, then by n/kk within families 0x0, 0x8, 0xE, 0xF" (R103, R104; the
spec's decisions D2, D3 and D30, assumption log 16 and 17). -/
def decodeWord (w : Word) : Except DecodeError Instr :=
  match opField w with
  | 0x0 =>
    match field w 7 0 with
    | 0xE0 => .ok .cls
    | 0xEE => .ok .ret
    | _ => .error (.unknownOpcode w)
  | 0x1 => .ok (.jp (nnnField w))
  | 0x2 => .ok (.call (nnnField w))
  | 0x3 => .ok (.seImm (xField w) (kkField w))
  | 0x4 => .ok (.sneImm (xField w) (kkField w))
  | 0x5 => .ok (.seReg (xField w) (yField w))
  | 0x6 => .ok (.ldImm (xField w) (kkField w))
  | 0x7 => .ok (.addImm (xField w) (kkField w))
  | 0x8 =>
    match field w 3 0 with
    | 0x0 => .ok (.ldReg (xField w) (yField w))
    | 0x1 => .ok (.orReg (xField w) (yField w))
    | 0x2 => .ok (.andReg (xField w) (yField w))
    | 0x3 => .ok (.xorReg (xField w) (yField w))
    | 0x4 => .ok (.addReg (xField w) (yField w))
    | 0x5 => .ok (.subReg (xField w) (yField w))
    | 0x6 => .ok (.shr (xField w))
    | 0x7 => .ok (.subn (xField w) (yField w))
    | 0xE => .ok (.shl (xField w))
    | _ => .error (.unknownOpcode w)
  | 0x9 => .ok (.sneReg (xField w) (yField w))
  | 0xA => .ok (.ldI (nnnField w))
  | 0xB => .ok (.jpV0 (nnnField w))
  | 0xC => .ok (.rnd (xField w) (kkField w))
  | 0xD => .ok (.drw (xField w) (yField w) (nField w))
  | 0xE =>
    match field w 7 0 with
    | 0x9E => .ok (.skp (xField w))
    | 0xA1 => .ok (.sknp (xField w))
    | _ => .error (.unknownOpcode w)
  | 0xF =>
    match field w 7 0 with
    | 0x07 => .ok (.ldVxDt (xField w))
    | 0x0A => .ok (.ldVxKey (xField w))
    | 0x15 => .ok (.ldDt (xField w))
    | 0x18 => .ok (.ldSt (xField w))
    | 0x1E => .ok (.addI (xField w))
    | 0x29 => .ok (.ldFont (xField w))
    | 0x33 => .ok (.ldBcd (xField w))
    | 0x55 => .ok (.storeRegs (xField w))
    | 0x65 => .ok (.loadRegs (xField w))
    | _ => .error (.unknownOpcode w)
  | _ => .error (.unknownOpcode w)

/-- Two bytes, the one at the lower address first, as a word: "combine[d] big-endian" (R76). -/
def wordOfBytes (hi lo : Byte) : Word := BitVec.ofNat 16 (hi.toNat * 256 + lo.toNat)

/-- The bytes of a word in the order memory holds them (R76). -/
def bytesOfWord (w : Word) : List Byte :=
  [BitVec.ofNat 8 (w.toNat / 256), BitVec.ofNat 8 (w.toNat % 256)]

/-- Decode the instruction at the head of some bytes. "A decoder always consumes exactly 2 bytes" (R100). -/
def decode : List Byte → Except DecodeError Instr
  | hi :: lo :: _ => decodeWord (wordOfBytes hi lo)
  | _ => .error .truncated

/-- A word from its four nibbles, most significant first. -/
def ofNibbles (a b c d : Nat) : Word := BitVec.ofNat 16 (a * 4096 + b * 256 + c * 16 + d)

/-- A word of format `nnn`: family nibble and 12-bit address (R101). -/
def ofNnn (op : Nat) (nnn : Imm12) : Word := BitVec.ofNat 16 (op * 4096 + nnn.toNat)

/-- A word of format `xkk`: family nibble, register and a byte (R101). -/
def ofXkk (op : Nat) (x : Reg) (kk : Byte) : Word :=
  BitVec.ofNat 16 (op * 4096 + x.val * 256 + kk.toNat)

/-- The canonical word of an instruction: don't-care bits are written 0 (R107, R110). -/
def encode : Instr → Word
  | .cls => ofNibbles 0x0 0x0 0xE 0x0
  | .ret => ofNibbles 0x0 0x0 0xE 0xE
  | .jp nnn => ofNnn 0x1 nnn
  | .call nnn => ofNnn 0x2 nnn
  | .seImm x kk => ofXkk 0x3 x kk
  | .sneImm x kk => ofXkk 0x4 x kk
  | .seReg x y => ofNibbles 0x5 x.val y.val 0x0
  | .ldImm x kk => ofXkk 0x6 x kk
  | .addImm x kk => ofXkk 0x7 x kk
  | .ldReg x y => ofNibbles 0x8 x.val y.val 0x0
  | .orReg x y => ofNibbles 0x8 x.val y.val 0x1
  | .andReg x y => ofNibbles 0x8 x.val y.val 0x2
  | .xorReg x y => ofNibbles 0x8 x.val y.val 0x3
  | .addReg x y => ofNibbles 0x8 x.val y.val 0x4
  | .subReg x y => ofNibbles 0x8 x.val y.val 0x5
  | .shr x => ofNibbles 0x8 x.val 0x0 0x6
  | .subn x y => ofNibbles 0x8 x.val y.val 0x7
  | .shl x => ofNibbles 0x8 x.val 0x0 0xE
  | .sneReg x y => ofNibbles 0x9 x.val y.val 0x0
  | .ldI nnn => ofNnn 0xA nnn
  | .jpV0 nnn => ofNnn 0xB nnn
  | .rnd x kk => ofXkk 0xC x kk
  | .drw x y n => ofNibbles 0xD x.val y.val n.val
  | .skp x => ofXkk 0xE x 0x9E#8
  | .sknp x => ofXkk 0xE x 0xA1#8
  | .ldVxDt x => ofXkk 0xF x 0x07#8
  | .ldVxKey x => ofXkk 0xF x 0x0A#8
  | .ldDt x => ofXkk 0xF x 0x15#8
  | .ldSt x => ofXkk 0xF x 0x18#8
  | .addI x => ofXkk 0xF x 0x1E#8
  | .ldFont x => ofXkk 0xF x 0x29#8
  | .ldBcd x => ofXkk 0xF x 0x33#8
  | .storeRegs x => ofXkk 0xF x 0x55#8
  | .loadRegs x => ofXkk 0xF x 0x65#8

/-- One fixed field of an opcode-table row: bits `hi..lo` hold `value`. -/
structure FixedField where
  hi : Nat
  lo : Nat
  value : Nat
  deriving DecidableEq, Repr

/-- One row of `opcode_table.json`: its pattern, the bits the decoder examines, and the don't-care bits that
the canonical spelling writes as 0 (R104, R107). -/
structure OpcodeRow where
  pattern : String
  examined : List FixedField
  dontCare : List FixedField
  deriving DecidableEq, Repr

/-- A word matches a row when every examined field has the row's value. -/
def OpcodeRow.selects (r : OpcodeRow) (w : Word) : Bool :=
  r.examined.all fun f => field w f.hi f.lo == f.value

/-- A word is the canonical spelling of a row when its don't-care bits are 0 as well (R107, R110). -/
def OpcodeRow.spells (r : OpcodeRow) (w : Word) : Bool :=
  r.selects w && r.dontCare.all fun f => field w f.hi f.lo == f.value

/-- A row selected by `op` alone. -/
def opRow (pattern : String) (op : Nat) : OpcodeRow := ⟨pattern, [⟨15, 12, op⟩], []⟩

/-- A row selected by `op` and by `kk`. -/
def kkRow (pattern : String) (op kk : Nat) : OpcodeRow := ⟨pattern, [⟨15, 12, op⟩, ⟨7, 0, kk⟩], []⟩

/-- A row selected by `op` and by `n`. -/
def nRow (pattern : String) (op n : Nat) : OpcodeRow := ⟨pattern, [⟨15, 12, op⟩, ⟨3, 0, n⟩], []⟩

/-- The opcode table, row by row in its own order (R104, `opcode_table.json`). -/
def opcodeRows : List OpcodeRow :=
  [ { kkRow "00E0" 0x0 0xE0 with dontCare := [⟨11, 8, 0⟩] },
    { kkRow "00EE" 0x0 0xEE with dontCare := [⟨11, 8, 0⟩] },
    opRow "1nnn" 0x1, opRow "2nnn" 0x2, opRow "3xkk" 0x3, opRow "4xkk" 0x4,
    { opRow "5xy0" 0x5 with dontCare := [⟨3, 0, 0⟩] },
    opRow "6xkk" 0x6, opRow "7xkk" 0x7,
    nRow "8xy0" 0x8 0x0, nRow "8xy1" 0x8 0x1, nRow "8xy2" 0x8 0x2, nRow "8xy3" 0x8 0x3,
    nRow "8xy4" 0x8 0x4, nRow "8xy5" 0x8 0x5,
    { nRow "8xy6" 0x8 0x6 with dontCare := [⟨7, 4, 0⟩] },
    nRow "8xy7" 0x8 0x7,
    { nRow "8xyE" 0x8 0xE with dontCare := [⟨7, 4, 0⟩] },
    { opRow "9xy0" 0x9 with dontCare := [⟨3, 0, 0⟩] } ] ++
  [ opRow "Annn" 0xA, opRow "Bnnn" 0xB, opRow "Cxkk" 0xC, opRow "Dxyn" 0xD,
    kkRow "Ex9E" 0xE 0x9E, kkRow "ExA1" 0xE 0xA1,
    kkRow "Fx07" 0xF 0x07, kkRow "Fx0A" 0xF 0x0A, kkRow "Fx15" 0xF 0x15, kkRow "Fx18" 0xF 0x18,
    kkRow "Fx1E" 0xF 0x1E, kkRow "Fx29" 0xF 0x29, kkRow "Fx33" 0xF 0x33, kkRow "Fx55" 0xF 0x55,
    kkRow "Fx65" 0xF 0x65 ]

/-- The instruction whose bits are `w` as `opcode_table.json` numbers them. Every row has 16 bits, so `w` is the
first word (the bits above `nbits` are 0), and the decoder reads its two bytes (R76, R100). -/
def decodeTableWord (nbits w : Nat) : Option Instr :=
  match decode (bytesOfWord (BitVec.ofNat 16 (w % 2 ^ nbits))) with
  | .ok i => some i
  | .error _ => none

end Sys2Proof
end

