-- ==== Sys2Proof/Config.lean ====
section
/-! DEFINITION. What the implementation fixes (`00_scope.md` R6) and the free values: the draws of the
external random source and the answers of the key-state provider, for which the spec gives no law.

A free value is a constant with no body, applied to the number of values taken so far, so that no proof can
see what it is (assumption log 1 and 2). -/

namespace Sys2Proof.Config

/-- Bytes of memory, `MEM_SIZE` (R6, R70). -/
abbrev memSize : Nat := 4096

/-- The reset value of `PC`, `PC_RESET` (R6, R50). -/
abbrev pcReset : Word := 0x200#16

/-- FREE VALUE. The `n`-th byte that `Cxkk` draws, "a free 8-bit input to the step with no law" (R185). -/
opaque freeRandomByte : Nat → Byte

/-- FREE VALUE. The keys that are down at the `n`-th sample of the key-state provider; "Successive answers
obey no law" (R280). -/
opaque freeKeysDown : Nat → Vector Bool 16

/-- FREE VALUE. The provider's choice among several keys that are down, `KeyChoice` (R6, R280). -/
opaque freeKeyChoice : Nat → Key

end Sys2Proof.Config
end

