-- ==== Sys2Proof/Machine/State.lean ====
section
/-! DEFINITION. The state of the core, what the outside world supplies to it, the reasons a step stops, and the
state after reset.

Spec: `10_state.md` R30 to R50 (every element and its reset value), `60_exceptions.md` R313, R314 (halt and status
codes), `00_scope.md` R10 (the operations of the block). The state is plain data. -/

namespace Sys2Proof.Machine

/-- The cause of a fatal error, the codes 3 to 6 that `HALTED(cause)` can hold (R310, R314). -/
inductive Cause where
  /-- `2nnn` with `SP = 16` (R311). -/
  | stackOverflow
  /-- `00EE` with `SP = 0` (R312). -/
  | stackUnderflow
  /-- A fetch with `PC > 0xFFE` (R315). -/
  | pcOutOfRange
  /-- `Ex9E` or `ExA1` with `Vx > 15` (R316). -/
  | keyIndexOutOfRange
  deriving DecidableEq, Repr

/-- The run-state register `run` (R43). -/
inductive RunState where
  /-- `RUN`: ready to fetch. -/
  | running
  /-- `AWAITING_KEY(t)`: suspended by `Fx0A` with target register `Vt`. -/
  | awaitingKey (t : Reg)
  /-- `HALTED(cause)`: a fatal error was raised. -/
  | halted (cause : Cause)
  deriving DecidableEq, Repr

/-- The value `cycle()` returns (R149, R314). It is an output of the step, not state of the core (assumption log 8). -/
inductive CycleStatus where
  /-- An instruction executed normally, `Fx0A` entering its wait included. -/
  | ok
  /-- The word matched no opcode row; `w` is the payload (R146). -/
  | unknownOpcode (w : Word)
  /-- `run = AWAITING_KEY`: nothing executed (R291). -/
  | waiting
  /-- A fatal error was raised by this cycle. -/
  | fatal (cause : Cause)
  /-- `run = HALTED`: nothing executed (R313). -/
  | halted
  deriving DecidableEq, Repr

/-- The value `load` returns (R314). -/
inductive LoadResult where
  /-- The font and the image are in memory (R355). -/
  | loadOk
  /-- The image has more than 3584 bytes and nothing was written (R354). -/
  | imageTooLarge
  deriving DecidableEq, Repr

/-- One sample of the key-state provider: which keys are down, and the choice it makes when several are
(R280). Both queries of the core are answered from one sample, so they agree. -/
structure KeySample where
  /-- `down[k]` holds when key `k` is down. -/
  down : Vector Bool 16
  /-- `KeyChoice`: where the provider's search for a pressed key starts. -/
  choice : Key
  deriving DecidableEq, Repr

/-- An input port of the core. The values in `given` are taken first, in order; after them the values are the
free values of `Config`, numbered by `taken`. DESIGN CHOICE, safe (assumption log 1). -/
structure Port (α : Type) where
  /-- Values that the outside world has already fixed, next one first. -/
  given : List α
  /-- How many values have been taken. -/
  taken : Nat
  deriving DecidableEq, Repr

/-- One operation that the driver or host performs on the core (R10). Reads of the output ports change nothing
and are functions of the state (`Machine/Ports.lean`). -/
inductive DriverOp where
  /-- `cycle()` (R140). -/
  | cycle
  /-- `tickTimers()` (R287). -/
  | tickTimers
  /-- `keyPoll()` (R292). -/
  | keyPoll
  /-- `load(programBytes)` (R355), with the parameter `FONT` (R353). -/
  | load (font : Font) (image : List Byte)
  /-- `reset()` (R351). -/
  | reset
  deriving DecidableEq, Repr

/-- Memory: the (address, byte) pairs of the bytes that are not 0, at strictly rising addresses. An address that is
not listed reads as 0, the value all memory has at construction (R40, R50; assumption log 9). -/
abbrev Memory := List Host.Cell

/-- The framebuffer `FB`: 32 rows of 64 one-bit pixels; bit `c` of row `r` is `FB[r][c]` (R39). -/
abbrev Framebuffer := Vector (BitVec 64) 32

/-- The state of the machine. The first twelve fields are the core's (R30 to R47). The last three are the
model's own: they hold what the outside world supplies. DESIGN CHOICE, safe (assumption log 1, 2 and 3). -/
structure State where
  /-- `V0`..`VF`, the general registers (R30, R31). -/
  v : Vector Byte 16
  /-- `I`, the index register (R33). -/
  i : Word
  /-- `PC`, the program counter (R34). -/
  pc : Word
  /-- `SP`, the number of stack entries in use, `0..16` (R35, R36). -/
  sp : Fin 17
  /-- `S[0]`..`S[15]`, the stack, stale entries included (R35, R37). -/
  stack : Vector Word 16
  /-- `DT`, the delay timer (R38). -/
  dt : Byte
  /-- `ST`, the sound timer (R38). -/
  st : Byte
  /-- `FB`, the framebuffer (R39). -/
  fb : Framebuffer
  /-- `M`, memory (R40, R70). -/
  mem : Memory
  /-- `OPC`, the word last fetched (R42). -/
  opc : Word
  /-- `run`, the run state (R43). -/
  run : RunState
  /-- `loaded`, whether a load has succeeded since construction or reset (R44). -/
  loaded : Bool
  /-- The port of the random-byte source (R185). -/
  random : Port Byte
  /-- The port of the key-state provider (R280). -/
  keypad : Port KeySample
  /-- The driver's next operations, first one first; when it is empty the driver calls `cycle()` (R83). -/
  sched : List DriverOp
  deriving DecidableEq, Repr

/-- No step faults: the spec gives every error condition a next state (R310, R313), and no access can leave the
address space (R73, R141), so there is no reason a step could fault with. -/
inductive Fault where
  deriving DecidableEq, Repr

/-- Why an operation has no step. -/
inductive Refusal where
  /-- Raised by an arm of `exec` whose instruction has no meaning yet; no arm raises it. Safe. -/
  | notModelled (mnemonic : String)
  /-- Raised by `cycle()` while `loaded = 0`: "`cycle()` has no step: the model refuses the run" (R357). Safe. -/
  | cycleBeforeLoad
  /-- Raised by `load` when `loaded = 1`: "has no step: the model refuses it" (R356). Safe. -/
  | loadTwice
  deriving DecidableEq, Repr

/-- What a step or an instruction answers. -/
abbrev Result := Host.Outcome State Fault Refusal

/-- The state after construction and after `reset()`: "zeroed except PC=0x200" (R50). The three fields of the outside
world hold nothing: DESIGN CHOICE, safe (assumption log 1, 2 and 3). -/
def State.reset : State where
  v := Vector.replicate 16 0#8
  i := 0#16
  pc := Config.pcReset
  sp := 0
  stack := Vector.replicate 16 0#16
  dt := 0#8
  st := 0#8
  fb := Vector.replicate 32 0#64
  mem := []
  opc := 0#16
  run := .running
  loaded := false
  random := ⟨[], 0⟩
  keypad := ⟨[], 0⟩
  sched := []

end Sys2Proof.Machine
end

