-- ==== Sys2Proof/Machine/Ops.lean ====
section
/-! DEFINITION. The named operations over registers, program counter, memory, stack and input ports, the fatal-error
action and the way back from it. Every instruction's meaning is written over these.

Spec: `00_scope.md` R8 (primitives), `20_memory.md` R70 to R81, `40_cycle.md` R141 and R144, `43_control_flow.md` R231 to
R233, `60_exceptions.md` R313, R322, R323. -/

namespace Sys2Proof.Machine

/-! ### General registers (R30) -/

/-- `V[x]`. -/
def State.reg (s : State) (x : Reg) : Byte := s.v[x.val]

/-- `V[x] <- b`. -/
def State.setReg (s : State) (x : Reg) (b : Byte) : State := { s with v := s.v.set x.val b }

/-- A flag write "stores exactly 0 or 1 into `VF`" (R171). -/
def State.setFlag (s : State) (flag : Bool) : State := s.setReg VF (if flag then 1#8 else 0#8)

/-! ### The other registers, memory and framebuffer, each written whole -/

/-- `I <- w` (R33). -/
def State.setI (s : State) (w : Word) : State := { s with i := w }

/-- `DT <- b` (R38). -/
def State.setDt (s : State) (b : Byte) : State := { s with dt := b }

/-- `ST <- b` (R38). -/
def State.setSt (s : State) (b : Byte) : State := { s with st := b }

/-- Memory becomes `m` (R40). -/
def State.setMem (s : State) (m : Memory) : State := { s with mem := m }

/-- The framebuffer becomes `fb` (R39). -/
def State.setFb (s : State) (fb : Framebuffer) : State := { s with fb := fb }

/-- `run <- r` (R43). -/
def State.setRun (s : State) (r : RunState) : State := { s with run := r }

/-- `OPC <- w` (R42, R142). -/
def State.setOpc (s : State) (w : Word) : State := { s with opc := w }

/-! ### Program counter (R34, R144, R233) -/

/-- `PC <- target`. -/
def State.jump (s : State) (target : Word) : State := { s with pc := target }

/-- `advance()`: `PC <- (PC + 2) mod 2^16` (R144). -/
def State.advance (s : State) : State := s.jump (s.pc + 2#16)

/-- `skip_if(c)`: `PC <- (PC + 4) mod 2^16` when `c` holds, else `advance()` (R233). -/
def State.skipIf (s : State) (c : Bool) : State := s.jump (s.pc + if c then 4#16 else 2#16)

/-! ### Memory (R70 to R81) -/

/-- The byte at an address; an address that is not listed reads as 0 (R50). -/
def Memory.read : Memory → Nat → Byte
  | [], _ => 0#8
  | (a, b) :: m, k => if a = k then b else Memory.read m k

/-- Write one byte, keeping the canonical form: writing 0 removes the entry. -/
def Memory.write : Memory → Nat → Byte → Memory
  | [], k, b => if b = 0#8 then [] else [(k, b)]
  | (a, c) :: m, k, b =>
    if a < k then (a, c) :: Memory.write m k b
    else
      let rest := if a = k then m else (a, c) :: m
      if b = 0#8 then rest else (k, b) :: rest

/-- Canonical form from address `lo` on: addresses rise strictly, lie inside memory, and no byte is 0. -/
def Memory.wfFrom : Nat → Memory → Bool
  | _, [] => true
  | lo, (a, b) :: m =>
    decide (lo ≤ a) && decide (a < Config.memSize) && decide (b ≠ 0#8) && Memory.wfFrom (a + 1) m

/-- The canonical form of memory: equal memories are equal lists. -/
def Memory.wf (m : Memory) : Bool := Memory.wfFrom 0 m

/-- `EA(k) = (I + k) mod 4096`, the address of the `k`-th byte of a data access (R73, the spec's decision D6;
assumption log 15). -/
def ea (base : Word) (k : Nat) : Nat := (base.toNat + k) % Config.memSize

/-- The bytes at `EA(0)`, ..., `EA(n-1)` (R77). -/
def Memory.readSeq (m : Memory) (base : Word) (n : Nat) : List Byte :=
  (List.range n).map fun k => Memory.read m (ea base k)

/-- Write bytes at `EA(k)`, `EA(k+1)`, ..., the first byte first (R77, R82). -/
def Memory.writeSeq (m : Memory) (base : Word) (k : Nat) : List Byte → Memory
  | [] => m
  | b :: bs => Memory.writeSeq (Memory.write m (ea base k) b) base (k + 1) bs

/-- Both bytes of a fetch at this address are valid offsets: it is at most `0xFFE` (R141). -/
def fetchable (pc : Word) : Bool := decide (pc.toNat ≤ 0xFFE)

/-- The fetched word, `M[PC]` in bits 15..8 and `M[PC+1]` in bits 7..0 (R76, R141). -/
def State.fetchWord (s : State) : Word :=
  wordOfBytes (Memory.read s.mem s.pc.toNat) (Memory.read s.mem (s.pc.toNat + 1))

/-! ### Input ports (R185, R280) -/

/-- The value a port gives next: the first given one, else the free value of its number. -/
def Port.value {α : Type} (free : Nat → α) (p : Port α) : α :=
  match p.given with
  | a :: _ => a
  | [] => free p.taken

/-- The port after its next value is taken. -/
def Port.next {α : Type} (p : Port α) : Port α := { given := p.given.tail, taken := p.taken + 1 }

/-- The byte `draw RandomByte()` gives in this state (R185). -/
def State.randomByte (s : State) : Byte := s.random.value Config.freeRandomByte

/-- The state after a random byte is drawn. -/
def State.drawRandom (s : State) : State := { s with random := s.random.next }

/-- The answer of the key-state provider in this state (R280). -/
def State.keySample (s : State) : KeySample :=
  s.keypad.value fun n => { down := Config.freeKeysDown n, choice := Config.freeKeyChoice n }

/-- The state after the key-state provider is asked. -/
def State.sampleKeys (s : State) : State := { s with keypad := s.keypad.next }

/-- `isPressed(k)` (R280). -/
def KeySample.isPressed (q : KeySample) (k : Key) : Bool := q.down[k.val]

/-- `anyPressedCode()`: the first pressed key in the order `choice`, `choice + 1`, ... (mod 16), so `None` exactly
when no key is down, and any pressed key for some choice (R280). DEDUCED, safe (assumption log 2). -/
def KeySample.anyPressedCode (q : KeySample) : Option Key :=
  ((List.range 16).map fun d => Fin.ofNat 16 (q.choice.val + d)).find? q.isPressed

/-! ### Fatal errors (R313, R322, R323) -/

/-- `raise Fatal(cause)`: "exactly `run <- HALTED(cause)`" (R313, the spec's decision D18; assumption log 14). No other
element changes: `PC` stays at the faulting instruction, and no handler runs (R322). -/
def raiseFatal (cause : Cause) (s : State) : Result := .next (s.setRun (.halted cause))

/-- The return from a halt: only `reset()` leaves `HALTED` (R323), and it gives every element of the core its value
of R50 (R351). The inputs of the outside world are no element of the core and stay: DESIGN CHOICE,
safe (assumption log 4). -/
def State.resetCore (s : State) : State :=
  { State.reset with random := s.random, keypad := s.keypad, sched := s.sched }

/-! ### The stack controller (R231, R232) -/

/-- `push(v)` writes `S[SP]` and then increments `SP`; with `SP = 16` there is no push (R231). -/
def State.push (s : State) (w : Word) : Option State :=
  if h : s.sp.val < 16 then
    some { s with stack := s.stack.set s.sp.val w, sp := ⟨s.sp.val + 1, by omega⟩ }
  else none

/-- `pop()` decrements `SP` and then reads `S[SP]`, which is not cleared; with `SP = 0` there is no pop (R232). -/
def State.pop (s : State) : Option (Word × State) :=
  if h : 0 < s.sp.val then
    some (s.stack[s.sp.val - 1], { s with sp := ⟨s.sp.val - 1, by omega⟩ })
  else none

/-! ### Framebuffer (R39, R260) -/

/-- `FB[r][c]`. -/
def Framebuffer.pixel (fb : Framebuffer) (r : Fin 32) (c : Fin 64) : Bool := fb[r.val].getLsbD c.val

/-- `FB[r][c] <- FB[r][c] ^ 1`. -/
def Framebuffer.toggle (fb : Framebuffer) (r : Fin 32) (c : Fin 64) : Framebuffer :=
  fb.set r.val (fb[r.val] ^^^ BitVec.twoPow 64 c.val)

end Sys2Proof.Machine
end

