-- ==== Sys2Proof/Machine/Flags.lean ====
section
/-! DEFINITION. The results and flags of the ALU operations that write `VF`. Each gives the result byte, reduced
`mod 256`, and the flag.

Spec: `41_alu.md` R170 to R172, R179 to R183. -/

namespace Sys2Proof.Machine

/-- Add: the sum `mod 256`, and whether the exact sum exceeds 255 (R179). -/
def addCarry (a b : Byte) : Byte × Bool :=
  (BitVec.ofNat 8 (a.toNat + b.toNat), decide (255 < a.toNat + b.toNat))

/-- Subtract: `(a - b) mod 256`, and NOT borrow, which holds when `a >= b` (R180, R182). -/
def subNotBorrow (a b : Byte) : Byte × Bool := (a - b, decide (b.toNat ≤ a.toNat))

/-- Shift right by one: `a >> 1`, and the old bit 0 (R181). -/
def shiftRight (a : Byte) : Byte × Bool := (a >>> 1, a.getLsbD 0)

/-- Shift left by one: `(a << 1) mod 256`, and the old bit 7 (R183). -/
def shiftLeft (a : Byte) : Byte × Bool := (a <<< 1, a.getLsbD 7)

/-- Write a result to `Vx` and then its flag to `VF`, so the flag stands when `x = F` (R172); then `advance()`. -/
def State.writeWithFlag (s : State) (x : Reg) (r : Byte × Bool) : State :=
  ((s.setReg x r.1).setFlag r.2).advance

end Sys2Proof.Machine
end

