-- ==== Sys2Proof/Machine/Operands.lean ====
section
/-! DEFINITION. Operand forms: immediates, the register range `V0..Vx`, key codes, glyph addresses and decimal
digits, and the constants of `00_scope.md` R6 that they use.

Spec: `30_encoding.md` R102, `42_index_memory.md` R200 to R206, `45_timers_input.md` R290. -/

namespace Sys2Proof.Machine

/-- `FONT_BASE` (R6). -/
def fontBase : Word := 0x050#16

/-- `PROGRAM_BASE` (R6). -/
def programBase : Word := 0x200#16

/-- `MAX_IMAGE`, `4096 - 0x200` bytes (R6, R354). -/
def maxImage : Nat := 3584

/-- `zext_16(nnn)`, an absolute 12-bit address (R102, R230). -/
def addrOf (nnn : Imm12) : Word := nnn.setWidth 16

/-- `zext_16(b)`, a register's byte as a 16-bit value (R202, R241). -/
def zext16 (b : Byte) : Word := b.setWidth 16

/-- `V0..Vx` in order, the `x + 1` bytes that `Fx55` stores (R205). -/
def State.regRange (s : State) (x : Reg) : List Byte := s.v.toList.take (x.val + 1)

/-- The registers after `V[k] <- MemRead(EA(k), 1)` for every `k` in `0..x` (R206). -/
def State.loadRange (s : State) (x : Reg) : State :=
  { s with v := Vector.ofFn fun k : Reg =>
      if k.val ≤ x.val then Memory.read s.mem (ea s.i k.val) else s.reg k }

/-- The key code in a byte; a value above 15 is no code (R290). -/
def keyCode (b : Byte) : Option Key := if h : b.toNat < 16 then some ⟨b.toNat, h⟩ else none

/-- The address of the glyph of a digit, `FONT_BASE + 5 * b`, for every byte `b` with no mask (R203). -/
def glyphAddr (b : Byte) : Word := fontBase + 5#16 * zext16 b

/-- The hundreds, tens and units digit of a byte (R204). -/
def bcdDigits (b : Byte) : List Byte :=
  [BitVec.ofNat 8 (b.toNat / 100), BitVec.ofNat 8 (b.toNat / 10 % 10), BitVec.ofNat 8 (b.toNat % 10)]

end Sys2Proof.Machine
end

