-- ==== Sys2Proof/Machine/Alu.lean ====
section
/-! DEFINITION. The ALU instructions: `6xkk`, `7xkk`, `8xy0` to `8xyE`, `Cxkk`.

Spec: `41_alu.md` R170 to R185. Sources are read before any register is written (R172). -/

namespace Sys2Proof.Machine

/-- `6xkk`: `V[x] <- kk` (R173). -/
def execLdImm (x : Reg) (kk : Byte) (s : State) : Result := .next (s.setReg x kk).advance

/-- `7xkk`: `V[x] <- (V[x] + kk) mod 256`, no flag (R174). -/
def execAddImm (x : Reg) (kk : Byte) (s : State) : Result := .next (s.setReg x (s.reg x + kk)).advance

/-- `8xy0`: `V[x] <- V[y]` (R175). -/
def execLdReg (x y : Reg) (s : State) : Result := .next (s.setReg x (s.reg y)).advance

/-- `8xy1`: `V[x] <- V[x] | V[y]`, no flag (R176). -/
def execOrReg (x y : Reg) (s : State) : Result := .next (s.setReg x (s.reg x ||| s.reg y)).advance

/-- `8xy2`: `V[x] <- V[x] & V[y]`, no flag (R177). -/
def execAndReg (x y : Reg) (s : State) : Result := .next (s.setReg x (s.reg x &&& s.reg y)).advance

/-- `8xy3`: `V[x] <- V[x] ^ V[y]`, no flag (R178). -/
def execXorReg (x y : Reg) (s : State) : Result := .next (s.setReg x (s.reg x ^^^ s.reg y)).advance

/-- `8xy4`: `V[x] <- V[x] + V[y]`, `VF` the carry (R179). -/
def execAddReg (x y : Reg) (s : State) : Result := .next (s.writeWithFlag x (addCarry (s.reg x) (s.reg y)))

/-- `8xy5`: `V[x] <- V[x] - V[y]`, `VF` NOT borrow (R180). -/
def execSubReg (x y : Reg) (s : State) : Result := .next (s.writeWithFlag x (subNotBorrow (s.reg x) (s.reg y)))

/-- `8xy6`: `V[x] <- V[x] >> 1`, `VF` the old bit 0 (R181). -/
def execShr (x : Reg) (s : State) : Result := .next (s.writeWithFlag x (shiftRight (s.reg x)))

/-- `8xy7`: `V[x] <- V[y] - V[x]`, `VF` NOT borrow (R182). -/
def execSubn (x y : Reg) (s : State) : Result := .next (s.writeWithFlag x (subNotBorrow (s.reg y) (s.reg x)))

/-- `8xyE`: `V[x] <- V[x] << 1`, `VF` the old bit 7 (R183). -/
def execShl (x : Reg) (s : State) : Result := .next (s.writeWithFlag x (shiftLeft (s.reg x)))

/-- `Cxkk`: draw a byte `r`, `V[x] <- r & kk` (R185). -/
def execRnd (x : Reg) (kk : Byte) (s : State) : Result :=
  .next (s.drawRandom.setReg x (s.randomByte &&& kk)).advance

end Sys2Proof.Machine
end

