-- ==== Sys2Proof/Machine/ControlFlow.lean ====
section
/-! DEFINITION. The control-flow instructions: `00EE`, `1nnn`, `2nnn`, `3xkk`, `4xkk`, `5xy0`, `9xy0`, `Bnnn`.

Spec: `43_control_flow.md` R230 to R242. A target is not checked here; the next fetch checks it (R230). -/

namespace Sys2Proof.Machine

/-- `00EE`: `PC <- pop()`; with an empty stack `Fatal(STACK_UNDERFLOW)` (R234, R312). -/
def execRet (s : State) : Result :=
  match s.pop with
  | some (target, s') => .next (s'.jump target)
  | none => raiseFatal .stackUnderflow s

/-- `1nnn`: `PC <- zext_16(nnn)` (R235). -/
def execJp (nnn : Imm12) (s : State) : Result := .next (s.jump (addrOf nnn))

/-- `2nnn`: push the successor's address, then `PC <- zext_16(nnn)`; with a full stack `Fatal(STACK_OVERFLOW)`
(R236, R311). -/
def execCall (nnn : Imm12) (s : State) : Result :=
  match s.push (s.pc + 2#16) with
  | some s' => .next (s'.jump (addrOf nnn))
  | none => raiseFatal .stackOverflow s

/-- `3xkk`: `skip_if(V[x] == kk)` (R237). -/
def execSeImm (x : Reg) (kk : Byte) (s : State) : Result := .next (s.skipIf (s.reg x == kk))

/-- `4xkk`: `skip_if(V[x] != kk)` (R238). -/
def execSneImm (x : Reg) (kk : Byte) (s : State) : Result := .next (s.skipIf (s.reg x != kk))

/-- `5xy0`: `skip_if(V[x] == V[y])` (R239). -/
def execSeReg (x y : Reg) (s : State) : Result := .next (s.skipIf (s.reg x == s.reg y))

/-- `9xy0`: `skip_if(V[x] != V[y])` (R240). -/
def execSneReg (x y : Reg) (s : State) : Result := .next (s.skipIf (s.reg x != s.reg y))

/-- `Bnnn`: `PC <- (zext_16(nnn) + zext_16(V[0])) mod 2^16` (R241). -/
def execJpV0 (nnn : Imm12) (s : State) : Result := .next (s.jump (addrOf nnn + zext16 (s.reg 0)))

end Sys2Proof.Machine
end

