-- ==== Sys2Proof/Machine/Display.lean ====
section
/-! DEFINITION. The pixel engine: `00E0` and `Dxyn`.

Spec: `44_display.md` R260 to R265. -/

namespace Sys2Proof.Machine

/-- The framebuffer and the collision flag while a sprite is drawn (R262). -/
structure Draw where
  fb : Framebuffer
  coll : Bool
  deriving DecidableEq, Repr

/-- Toggle one pixel; a pixel that was 1 makes a collision (R262, R265). -/
def Draw.toggle (d : Draw) (r : Fin 32) (c : Fin 64) : Draw :=
  { fb := Framebuffer.toggle d.fb r c, coll := d.coll || Framebuffer.pixel d.fb r c }

/-- The row of the framebuffer that row `i` of a sprite at `cy` is drawn on (R264). -/
def spriteRow (cy : Byte) (i : Nat) : Fin 32 := Fin.ofNat 32 (cy.toNat + i)

/-- The column of the framebuffer that bit `j` of a sprite row at `cx` is drawn on (R264). -/
def spriteCol (cx : Byte) (j : Nat) : Fin 64 := Fin.ofNat 64 (cx.toNat + j)

/-- Draw one sprite row, most significant bit first: bit `7 - j` of the byte is column offset `j` (R263). -/
def drawRow (cx cy : Byte) (i : Nat) (row : Byte) (d : Draw) : Draw :=
  (List.range 8).foldl
    (fun d j => if row.getLsbD (7 - j) then d.toggle (spriteRow cy i) (spriteCol cx j) else d) d

/-- Draw sprite rows `i`, `i + 1`, ... from their bytes, top row first (R262, R263). -/
def drawRows (cx cy : Byte) : Nat → List Byte → Draw → Draw
  | _, [], d => d
  | i, row :: rows, d => drawRows cx cy (i + 1) rows (drawRow cx cy i row d)

/-- `00E0`: every pixel 0; `VF` is not written (R261). -/
def execCls (s : State) : Result := .next (s.setFb (Vector.replicate 32 0#64)).advance

/-- `Dxyn`: XOR the `n`-row sprite at `EA(0)`..`EA(n-1)` onto the framebuffer at column `V[x]`, row `V[y]`; `VF` is the
collision, written last (R262). -/
def execDrw (x y : Reg) (n : Height) (s : State) : Result :=
  let d := drawRows (s.reg x) (s.reg y) 0 (Memory.readSeq s.mem s.i n.val) { fb := s.fb, coll := false }
  .next ((s.setFb d.fb).setFlag d.coll).advance

end Sys2Proof.Machine
end

