-- ==== Sys2Proof/Machine/IndexMemory.lean ====
section
/-! DEFINITION. The index register and memory instructions: `Annn`, `Fx1E`, `Fx29`, `Fx33`, `Fx55`, `Fx65`.

Spec: `42_index_memory.md` R200 to R210. None but `Annn`, `Fx1E` and `Fx29` writes `I` (R33, R210). -/

namespace Sys2Proof.Machine

/-- `Annn`: `I <- zext_16(nnn)` (R201). -/
def execLdI (nnn : Imm12) (s : State) : Result := .next (s.setI (addrOf nnn)).advance

/-- `Fx1E`: `I <- (I + zext_16(V[x])) mod 2^16`, no flag (R202). -/
def execAddI (x : Reg) (s : State) : Result := .next (s.setI (s.i + zext16 (s.reg x))).advance

/-- `Fx29`: `I <- FONT_BASE + 5 * V[x]` (R203). -/
def execLdFont (x : Reg) (s : State) : Result := .next (s.setI (glyphAddr (s.reg x))).advance

/-- `Fx33`: the three decimal digits of `V[x]` to `EA(0)`, `EA(1)`, `EA(2)` (R204). -/
def execLdBcd (x : Reg) (s : State) : Result :=
  .next (s.setMem (Memory.writeSeq s.mem s.i 0 (bcdDigits (s.reg x)))).advance

/-- `Fx55`: `V0..Vx` to `EA(0)`..`EA(x)` (R205). -/
def execStoreRegs (x : Reg) (s : State) : Result :=
  .next (s.setMem (Memory.writeSeq s.mem s.i 0 (s.regRange x))).advance

/-- `Fx65`: `V0..Vx` from `EA(0)`..`EA(x)` (R206). -/
def execLoadRegs (x : Reg) (s : State) : Result := .next (s.loadRange x).advance

end Sys2Proof.Machine
end

