-- ==== Sys2Proof/Machine/TimersInput.lean ====
section
/-! DEFINITION. The timer and input instructions: `Ex9E`, `ExA1`, `Fx07`, `Fx0A`, `Fx15`, `Fx18`.

Spec: `45_timers_input.md` R280 to R286, R290. -/

namespace Sys2Proof.Machine

/-- `Ex9E`: skip if key `V[x]` is pressed; with `V[x] > 15`, before any query, `Fatal(KEY_INDEX_OUT_OF_RANGE)`
(R281, R290). -/
def execSkp (x : Reg) (s : State) : Result :=
  match keyCode (s.reg x) with
  | some k => .next (s.sampleKeys.skipIf (s.keySample.isPressed k))
  | none => raiseFatal .keyIndexOutOfRange s

/-- `ExA1`: skip if key `V[x]` is not pressed; with `V[x] > 15`, before any query, `Fatal(KEY_INDEX_OUT_OF_RANGE)`
(R282, R290). -/
def execSknp (x : Reg) (s : State) : Result :=
  match keyCode (s.reg x) with
  | some k => .next (s.sampleKeys.skipIf (!s.keySample.isPressed k))
  | none => raiseFatal .keyIndexOutOfRange s

/-- `Fx07`: `V[x] <- DT` (R283). -/
def execLdVxDt (x : Reg) (s : State) : Result := .next (s.setReg x s.dt).advance

/-- `Fx0A`: `run <- AWAITING_KEY(x)`, then `advance()`; `keyPoll()` writes `V[x]` later (R284). -/
def execLdVxKey (x : Reg) (s : State) : Result := .next (s.setRun (.awaitingKey x)).advance

/-- `Fx15`: `DT <- V[x]` (R285). -/
def execLdDt (x : Reg) (s : State) : Result := .next (s.setDt (s.reg x)).advance

/-- `Fx18`: `ST <- V[x]` (R286). -/
def execLdSt (x : Reg) (s : State) : Result := .next (s.setSt (s.reg x)).advance

end Sys2Proof.Machine
end

