-- ==== Sys2Proof/Machine/Cycle.lean ====
section
/-! DEFINITION. `cycle()`: fetch, decode and execute one instruction, and the status it returns.

Spec: `40_cycle.md` R140 to R150, `45_timers_input.md` R291, `60_exceptions.md` R313 to R319,
`70_reset_and_hazards.md` R357. -/

namespace Sys2Proof.Machine

/-- The numeric code of a cause (R314). -/
def Cause.code : Cause → Nat
  | .stackOverflow => 3
  | .stackUnderflow => 4
  | .pcOutOfRange => 5
  | .keyIndexOutOfRange => 6

/-- The numeric code of a cycle status (R314). -/
def CycleStatus.code : CycleStatus → Nat
  | .ok => 0
  | .unknownOpcode _ => 1
  | .waiting => 2
  | .fatal cause => cause.code
  | .halted => 7

/-- The numeric code of a load result (R314). -/
def LoadResult.code : LoadResult → Nat
  | .loadOk => 0
  | .imageTooLarge => 1

/-- The status of an instruction that left this state: the code of the fatal error it raised, else `OK` (R140). -/
def statusAfter (s : State) : CycleStatus :=
  match s.run with
  | .halted cause => .fatal cause
  | _ => .ok

/-- Apply a function to the state of a next outcome. -/
def mapNext {σ τ : Type} (f : σ → τ) : Host.Outcome σ Fault Refusal → Host.Outcome τ Fault Refusal
  | .next s => .next (f s)
  | .fault r => .fault r
  | .refused r => .refused r

/-- Pair the state that an instruction or error leaves with its status. -/
def withStatus (r : Result) : Host.Outcome (CycleStatus × State) Fault Refusal :=
  mapNext (fun s => (statusAfter s, s)) r

/-- Execute a fetched word: the rule of the one row it matches, or the unknown-opcode no-op, which advances `PC` and
reports the word (R146, R147). -/
def dispatchWord (w : Word) (s : State) : Host.Outcome (CycleStatus × State) Fault Refusal :=
  match decodeWord w with
  | .ok i => withStatus (exec i s)
  | .error _ => .next (.unknownOpcode w, s.advance)

/-- Fetch at `PC`, record the word in `OPC`, and execute it; a fetch above `0xFFE` reads nothing and raises
`Fatal(PC_OUT_OF_RANGE)` (R141, R142, R315). -/
def fetchExecute (s : State) : Host.Outcome (CycleStatus × State) Fault Refusal :=
  if fetchable s.pc then dispatchWord s.fetchWord (s.setOpc s.fetchWord)
  else withStatus (raiseFatal .pcOutOfRange s)

/-- `cycle() -> CycleStatus` (R140): the status and the next state. Before a load it has no step (R357); a suspended
or halted core changes nothing (R291, R313). -/
def cycleWithStatus (s : State) : Host.Outcome (CycleStatus × State) Fault Refusal :=
  if s.loaded then
    match s.run with
    | .running => fetchExecute s
    | .awaitingKey _ => .next (.waiting, s)
    | .halted _ => .next (.halted, s)
  else .refused .cycleBeforeLoad

/-- The state after `cycle()`. -/
def cycle (s : State) : Result := mapNext Prod.snd (cycleWithStatus s)

end Sys2Proof.Machine
end

