-- ==== Sys2Proof/Machine/Driver.lean ====
section
/-! DEFINITION. The operations of the driver and the host other than `cycle()`: `tickTimers()`, `keyPoll()`, `load` and
`reset()`, the default font, and the dispatch of one scheduled operation.

Spec: `00_scope.md` R10, `45_timers_input.md` R287 to R293, `70_reset_and_hazards.md` R350 to R358. -/

namespace Sys2Proof.Machine

/-- One tick of a timer: "decremented toward zero"; a timer at 0 stays 0 (R287). -/
def tickTimer (t : Byte) : Byte := if t = 0#8 then t else t - 1#8

/-- `tickTimers()`: both timers, in every run state (R287, R288). -/
def tickTimers (s : State) : State := (s.setDt (tickTimer s.dt)).setSt (tickTimer s.st)

/-- `keyPoll()`: in `AWAITING_KEY(t)` it asks the provider, and with a key down writes its code to `V[t]` and resumes;
otherwise it has no effect (R292). -/
def keyPoll (s : State) : State :=
  match s.run with
  | .awaitingKey t =>
    match s.keySample.anyPressedCode with
    | some k => (s.sampleKeys.setReg t (BitVec.ofNat 8 k.val)).setRun .running
    | none => s.sampleKeys
  | .running => s
  | .halted _ => s

/-- The 80 font bytes in the order they are placed, glyph by glyph (R352). -/
def fontBytes (font : Font) : List Byte := (font.toList.map Vector.toList).flatten

/-- What `load` returns for an image: the bound is 3584 bytes (R354). -/
def loadResult (image : List Byte) : LoadResult :=
  if image.length ≤ maxImage then .loadOk else .imageTooLarge

/-- The state a successful `load` leaves: the font at `0x050`, the image at `0x200`, `loaded` set; nothing else
changes (R355). -/
def State.loadImage (s : State) (font : Font) (image : List Byte) : State :=
  { s with
    mem := Memory.writeSeq (Memory.writeSeq s.mem fontBase 0 (fontBytes font)) programBase 0 image
    loaded := true }

/-- `load(programBytes)`, with the font it places (assumption log 10): refused when an image is loaded (R356); an image
that is too large is rejected with nothing written (R354). -/
def load (font : Font) (image : List Byte) (s : State) : Result :=
  if s.loaded then .refused .loadTwice
  else
    match loadResult image with
    | .loadOk => .next (s.loadImage font image)
    | .imageTooLarge => .next s

/-- The default of the parameter `FONT` (R353). PRESUMED: the spec takes the bytes from general knowledge, and a claim
about glyph pixels must name the font; unsafe for one that does not (assumption log 5). -/
def defaultFont : Font :=
  #v[ #v[0xF0, 0x90, 0x90, 0x90, 0xF0], #v[0x20, 0x60, 0x20, 0x20, 0x70],
      #v[0xF0, 0x10, 0xF0, 0x80, 0xF0], #v[0xF0, 0x10, 0xF0, 0x10, 0xF0],
      #v[0x90, 0x90, 0xF0, 0x10, 0x10], #v[0xF0, 0x80, 0xF0, 0x10, 0xF0],
      #v[0xF0, 0x80, 0xF0, 0x90, 0xF0], #v[0xF0, 0x10, 0x20, 0x40, 0x40],
      #v[0xF0, 0x90, 0xF0, 0x90, 0xF0], #v[0xF0, 0x90, 0xF0, 0x10, 0xF0],
      #v[0xF0, 0x90, 0xF0, 0x90, 0x90], #v[0xE0, 0x90, 0xE0, 0x90, 0xE0],
      #v[0xF0, 0x80, 0x80, 0x80, 0xF0], #v[0xE0, 0x90, 0x90, 0x90, 0xE0],
      #v[0xF0, 0x80, 0xF0, 0x80, 0xF0], #v[0xF0, 0x80, 0xF0, 0x80, 0x80] ]

/-- Perform one operation of R10 on the core. -/
def perform (op : DriverOp) (s : State) : Result :=
  match op with
  | .cycle => cycle s
  | .tickTimers => .next (tickTimers s)
  | .keyPoll => .next (keyPoll s)
  | .load font image => load font image s
  | .reset => .next s.resetCore

/-- The operation the driver performs next: the first scheduled one, else `cycle()`. DESIGN CHOICE, safe
(assumption log 3). -/
def State.nextOp (s : State) : DriverOp := s.sched.headD .cycle

/-- The state with the next operation taken off the schedule. -/
def State.dropOp (s : State) : State := { s with sched := s.sched.tail }

end Sys2Proof.Machine
end

