-- ==== Sys2Proof/Machine/Ports.lean ====
section
/-! DEFINITION. The output ports: reads that change nothing and see the state between two steps (`20_memory.md` R84).
They are functions of the state and take no step (DESIGN CHOICE, assumption log 11).

Spec: `44_display.md` R266, `45_timers_input.md` R289, `60_exceptions.md` R330. -/

namespace Sys2Proof.Machine

/-- The framebuffer read port: 2048 pixels in row-major order, pixel `(r, c)` at index `r*64 + c` (R266). -/
def State.framebufferPort (s : State) : List Bool :=
  ((List.finRange 32).map fun r => (List.finRange 64).map fun c => Framebuffer.pixel s.fb r c).flatten

/-- The sound output, `sound_active = (ST > 0)` (R289). -/
def State.soundActive (s : State) : Bool := decide (0 < s.st.toNat)

/-- The diagnostic dump: `PC`, `I`, `OPC`, all registers, `SP`, all 16 stack entries and `run` (R330). -/
structure Dump where
  pc : Word
  i : Word
  opc : Word
  v : Vector Byte 16
  sp : Fin 17
  stack : Vector Word 16
  run : RunState
  deriving DecidableEq, Repr

/-- Read the diagnostic dump (R330). -/
def State.dump (s : State) : Dump :=
  { pc := s.pc, i := s.i, opc := s.opc, v := s.v, sp := s.sp, stack := s.stack, run := s.run }

end Sys2Proof.Machine
end

