-- ==== Sys2Proof/Machine/Step.lean ====
section
/-! DEFINITION. One step of the machine: the next operation of the driver, performed as one atomic step
(`20_memory.md` R82, R83). -/

namespace Sys2Proof.Machine

/-- Take the next operation off the schedule and perform it; with an empty schedule it is `cycle()`. -/
def step (s : State) : Host.Outcome State Fault Refusal := perform s.nextOp s.dropOp

/-- `s` with the instruction word `w` (numbered as `opcode_table.json` numbers bits) at the address that the next fetch
reads, ready to run: loaded, running, and with `cycle()` as the next operation. It stands for the load of a program
(DESIGN CHOICE, assumption log 6). A `PC` that no fetch can read becomes the entry point. -/
def State.withFetchWord (s : State) (nbits w : Nat) : State :=
  let pc := if fetchable s.pc then s.pc else Config.pcReset
  { s with
    pc := pc
    mem := Memory.writeSeq s.mem pc 0 (bytesOfWord (BitVec.ofNat 16 (w % 2 ^ nbits)))
    run := .running
    loaded := true
    sched := [] }

end Sys2Proof.Machine
end

