-- ==== Sys2Proof/Safety.lean ====
section
/-! DEFINITION. What counts as a good state and a safe run, and the words that claims about the machine are stated
in: which parts of the state are unchanged, which pixels a sprite covers, the next operation being `cycle()`. -/

namespace Sys2Proof.Machine

/-- The parts of the state, one for each field. -/
inductive Part where
  | regs | index | pc | stack | delay | sound | pixels | memory | opcode | run | loaded | random | keypad | schedule
  deriving DecidableEq, Repr

/-- A part is the same in two states: registers, pixels and memory as they are read, the stack with its pointer and
its stale entries. -/
def Part.same (p : Part) (s t : State) : Prop :=
  match p with
  | .regs => ∀ r : Reg, t.reg r = s.reg r
  | .index => t.i = s.i
  | .pc => t.pc = s.pc
  | .stack => t.sp = s.sp ∧ ∀ k : Fin 16, t.stack[k.val] = s.stack[k.val]
  | .delay => t.dt = s.dt
  | .sound => t.st = s.st
  | .pixels => ∀ (r : Fin 32) (c : Fin 64), Framebuffer.pixel t.fb r c = Framebuffer.pixel s.fb r c
  | .memory => ∀ a : Nat, Memory.read t.mem a = Memory.read s.mem a
  | .opcode => t.opc = s.opc
  | .run => t.run = s.run
  | .loaded => t.loaded = s.loaded
  | .random => t.random = s.random
  | .keypad => t.keypad = s.keypad
  | .schedule => t.sched = s.sched

/-- Every part of the state but the listed ones is the same: the frame of an instruction or operation. -/
def KeepsAllBut (parts : List Part) (s t : State) : Prop := ∀ p : Part, p ∉ parts → p.same s t

/-- Every general register but `x` is the same. -/
def KeepsRegsBut (x : Reg) (s t : State) : Prop := ∀ r : Reg, r ≠ x → t.reg r = s.reg r

/-- The driver's next operation is `cycle()`: the schedule is empty or begins with it. -/
def State.cyclesNext (s : State) : Prop := s.sched = [] ∨ ∃ ops, s.sched = .cycle :: ops

/-- The core is loaded and running and its next operation is a `cycle()` whose fetch is legal (R140, R141). -/
structure State.Fetches (s : State) : Prop where
  loaded : s.loaded = true
  running : s.run = .running
  next : s.cyclesNext
  inRange : s.pc.toNat ≤ 0xFFE

/-- The core is halted by a fatal error (R313). -/
def State.isHalted (s : State) : Prop := ∃ cause, s.run = .halted cause

/-- Pixel `(r, c)` is one that the sprite of `Dxyn` toggles: a 1 bit `7 - j` of sprite byte `i` lands on it
(R262 to R264). -/
def SpriteCovers (s : State) (x y : Reg) (n : Height) (r : Fin 32) (c : Fin 64) : Prop :=
  ∃ i < n.val, ∃ j < 8,
    (Memory.read s.mem ((s.i.toNat + i) % 4096)).getLsbD (7 - j) = true ∧
      r.val = ((s.reg y).toNat + i) % 32 ∧ c.val = ((s.reg x).toNat + j) % 64

/-- The key-state provider answers the next step that asks with `q`, and then has `rest` given: the first given
sample, or, with none given, the free values numbered by the samples taken (R280; the port is the model's own,
assumption log 2). -/
def State.NextSample (s : State) (q : KeySample) (rest : List KeySample) : Prop :=
  s.keypad.given = q :: rest ∨
  (s.keypad.given = [] ∧ rest = [] ∧
    q = { down := Config.freeKeysDown s.keypad.taken, choice := Config.freeKeyChoice s.keypad.taken })

/-- Every element of the core has its value after construction, element by element as R50 lists them. -/
structure State.HasResetValues (s : State) : Prop where
  regs : ∀ r : Reg, s.reg r = 0#8
  index : s.i = 0#16
  pc : s.pc = 0x200#16
  sp : s.sp.val = 0
  stack : ∀ k : Fin 16, s.stack[k.val] = 0#16
  delay : s.dt = 0#8
  sound : s.st = 0#8
  pixels : ∀ (r : Fin 32) (c : Fin 64), Framebuffer.pixel s.fb r c = false
  memory : ∀ a : Nat, Memory.read s.mem a = 0#8
  opcode : s.opc = 0#16
  run : s.run = .running
  loaded : s.loaded = false

/-- The invariant of the machine. Memory is in its canonical form; before a load the core is in its reset state
(R357); a halt's cause is the one that the stack pointer, the registers, `PC` and `OPC` show (R311, R312, R315,
R316); a suspended core was suspended by the `Fx0A` that `OPC` holds (R142, R284). -/
structure State.Inv (s : State) : Prop where
  memory : Memory.wf s.mem = true
  unloaded : s.loaded = false → s = s.resetCore
  overflow : s.run = .halted .stackOverflow → s.sp.val = 16 ∧ ∃ nnn, decodeWord s.opc = .ok (.call nnn)
  underflow : s.run = .halted .stackUnderflow → s.sp.val = 0 ∧ decodeWord s.opc = .ok .ret
  outOfRange : s.run = .halted .pcOutOfRange → 0xFFE < s.pc.toNat
  keyIndex : s.run = .halted .keyIndexOutOfRange →
    ∃ x, (decodeWord s.opc = .ok (.skp x) ∨ decodeWord s.opc = .ok (.sknp x)) ∧ 15 < (s.reg x).toNat
  waiting : ∀ t, s.run = .awaitingKey t → decodeWord s.opc = .ok (.ldVxKey t)

/-- A safe run of `k` steps: no step is refused and no fatal error is raised (R150: a run ends at the first fatal
status). -/
def SafeFor : Nat → State → Prop
  | 0, s => ¬ s.isHalted
  | k + 1, s => ¬ s.isHalted ∧ ∃ t, step s = .next t ∧ SafeFor k t

end Sys2Proof.Machine
end

