-- ==== Sys2Proof/WellFormed.lean ====
section
/-! DEFINITION. Well-formed words and instructions.

The operand types of `Instr` admit exactly the values of their fields (`30_encoding.md` R101, R102), so no operand
of an `Instr` can be out of range and there is no check on operands. What is checked is the word: it must match a
row of the opcode table (R105, R106) and its don't-care bits must be the zeros of the canonical spelling (R107,
R110; assumption log 13). -/

namespace Sys2Proof.WellFormed

/-- Check 1: the word matches a row of the opcode table; otherwise it is an unknown opcode (R106). -/
def known (w : Word) : Bool := opcodeRows.any fun r => r.selects w

/-- Check 2: the word is the canonical spelling of the row it matches (R107, R110). -/
def canonical (w : Word) : Bool := opcodeRows.any fun r => r.spells w

end Sys2Proof.WellFormed

/-- An instruction is well formed when its word is the canonical spelling of a row of the opcode table. -/
def Sys2Proof.Instr.wellFormed (i : Instr) : Bool := WellFormed.canonical (encode i)
end

