-- ==== Sys2Proof/Certificates/Slice0/Obligations.lean ====
section
/-! DEFINITION. The statements about the machine, for the provers. Every statement about an instruction says how
its words decode, that `exec` answers a next state, what that state holds and what it keeps (its frame). -/

open Sys2Proof Sys2Proof.Machine

/-! ### Encoding -/

/-- Decoding the word of any instruction gives it back, and so does decoding its bytes in memory order with any
bytes behind them (R76, R100 to R104). -/
def Obligations.EncodedInstructionsDecodeToThemselves : Prop :=
  ∀ (i : Instr) (rest : List Byte),
    decodeWord (encode i) = .ok i ∧ decode (bytesOfWord (encode i) ++ rest) = .ok i

/-- The other direction: a canonical word decodes to some instruction, and that instruction's word is the
canonical word itself (R107, R110). -/
def Obligations.CanonicalWordsReencodeToThemselves : Prop :=
  ∀ w : Word, WellFormed.canonical w = true → ∃ i, decodeWord w = .ok i ∧ encode i = w

/-- R105: the rows are pairwise disjoint; a word that matches a row decodes, and a word that matches none is an
unknown opcode. -/
def Obligations.EachWordMatchesOneRowOrIsUnknown : Prop :=
  (∀ w : Word, opcodeRows.Pairwise fun r q => ¬(r.selects w = true ∧ q.selects w = true)) ∧
  (∀ w : Word, (∃ r ∈ opcodeRows, r.selects w = true) → ∃ i, decodeWord w = .ok i) ∧
  (∀ w : Word, (∀ r ∈ opcodeRows, r.selects w = false) → decodeWord w = .error (.unknownOpcode w))

/-- The words that are no instruction are exactly those of R106, each rejected by name. -/
def Obligations.UnknownOpcodeSpaceIsExact : Prop :=
  ∀ w : Word, decodeWord w = .error (.unknownOpcode w) ↔
    (w.toNat / 0x1000 = 0x0 ∧ w.toNat % 0x100 ∉ [0xE0, 0xEE]) ∨
    (w.toNat / 0x1000 = 0x8 ∧ w.toNat % 0x10 ∈ [0x8, 0x9, 0xA, 0xB, 0xC, 0xD, 0xF]) ∨
    (w.toNat / 0x1000 = 0xE ∧ w.toNat % 0x100 ∉ [0x9E, 0xA1]) ∨
    (w.toNat / 0x1000 = 0xF ∧
      w.toNat % 0x100 ∉ [0x07, 0x0A, 0x15, 0x18, 0x1E, 0x29, 0x33, 0x55, 0x65])

/-- R112: the worked decodes of `0x8344`, `0x2300` and `0xF033`. -/
def Obligations.WorkedDecodesOfTheSpec : Prop :=
  (opField 0x8344#16 = 8 ∧ xField 0x8344#16 = 3 ∧ yField 0x8344#16 = 4 ∧ nField 0x8344#16 = 4 ∧
    kkField 0x8344#16 = 0x44#8 ∧ nnnField 0x8344#16 = 0x344#12 ∧
    decode [0x83#8, 0x44#8] = .ok (.addReg 3 4)) ∧
  (opField 0x2300#16 = 2 ∧ nnnField 0x2300#16 = 0x300#12 ∧ decode [0x23#8, 0x00#8] = .ok (.call 0x300#12)) ∧
  (opField 0xF033#16 = 15 ∧ kkField 0xF033#16 = 0x33#8 ∧ xField 0xF033#16 = 0 ∧
    decode [0xF0#8, 0x33#8] = .ok (.ldBcd 0))

/-! ### The cycle

A statement about `step` speaks of the schedule, the list of the driver's operations: it is the model's own, and an
empty one means `cycle()` (DESIGN CHOICE, assumption log 3). -/

/-- When the bytes at `PC` decode to `i`, a step is `exec i` on the state with the word recorded in `OPC` and the
operation taken off the schedule; its status is `OK` or the code of the fatal error it raised (R140 to R142,
R147). -/
def Obligations.StepRunsTheDecodedInstruction : Prop :=
  ∀ (s : State) (i : Instr) (hi lo : Byte), s.Fetches →
    Memory.read s.mem s.pc.toNat = hi → Memory.read s.mem (s.pc.toNat + 1) = lo → decode [hi, lo] = .ok i →
    step s = exec i { s with opc := wordOfBytes hi lo, sched := s.sched.tail } ∧
    ∀ t, exec i { s with opc := wordOfBytes hi lo } = .next t →
      (∀ cause, t.run = .halted cause → cycleWithStatus s = .next (.fatal cause, t)) ∧
      (¬ t.isHalted → cycleWithStatus s = .next (.ok, t))

/-- R146: an unknown opcode changes nothing but `PC`, which advances by 2, and `OPC`, which holds the word; the status is
`UNKNOWN_OPCODE` with the word. -/
def Obligations.UnknownOpcodeIsReportedNoOp : Prop :=
  ∀ (s : State) (hi lo : Byte), s.Fetches →
    Memory.read s.mem s.pc.toNat = hi → Memory.read s.mem (s.pc.toNat + 1) = lo →
    (∀ i, decode [hi, lo] ≠ .ok i) →
    ∃ t, step s = .next t ∧ t.pc = s.pc + 2#16 ∧ t.opc.toNat = hi.toNat * 256 + lo.toNat ∧
      t.run = .running ∧ KeepsAllBut [.pc, .opcode, .schedule] s t ∧
      ∃ u, cycleWithStatus s = .next (.unknownOpcode t.opc, u)

/-- R141, R315: a fetch with `PC > 0xFFE` raises `Fatal(PC_OUT_OF_RANGE)`: only `run` changes, so `PC` keeps the
out-of-range value, the dump shows it, and `OPC` keeps its previous value. -/
def Obligations.FetchAboveTheTopOfMemoryHalts : Prop :=
  ∀ s : State, s.loaded = true → s.run = .running → s.cyclesNext → 0xFFE < s.pc.toNat →
    ∃ t, step s = .next t ∧ t.run = .halted .pcOutOfRange ∧ t.dump.pc = s.pc ∧
      KeepsAllBut [.run, .schedule] s t ∧ ∃ u, cycleWithStatus s = .next (.fatal .pcOutOfRange, u)

/-- While the core is suspended, `cycle()` changes nothing and returns `WAITING` (R291). So does the step that performs
it, but for the schedule, which loses its first operation; the schedule, and that an empty one means `cycle()`, is the
model's own (DESIGN CHOICE, assumption log 3). -/
def Obligations.SuspendedCycleChangesNothing : Prop :=
  ∀ (s : State) (x : Reg), s.loaded = true → s.run = .awaitingKey x →
    cycleWithStatus s = .next (.waiting, s) ∧
    (s.cyclesNext → step s = .next { s with sched := s.sched.tail })

/-- Every instruction answers a next state from every state: none faults and none is refused (R310, R319). -/
def Obligations.NoInstructionStopsTheMachine : Prop :=
  ∀ (i : Instr) (s : State), ∃ t, exec i s = .next t

/-- A step is refused exactly for a `cycle()` before a load (R357) and for a `load` when one is loaded (R356). -/
def Obligations.StepIsRefusedOnlyOutOfOrder : Prop :=
  ∀ s : State,
    (∀ r, step s = .refused r ↔
      (s.loaded = false ∧ s.cyclesNext ∧ r = .cycleBeforeLoad) ∨
      (s.loaded = true ∧ r = .loadTwice ∧ ∃ font image ops, s.sched = .load font image :: ops)) ∧
    (∀ f, step s ≠ .fault f)

/-- R313, R319, R320: an instruction that raises a fatal error changes `run` and nothing else, and the only
instructions that do are `2nnn` with a full stack, `00EE` with an empty one, and `Ex9E` and `ExA1` with a code above
15. -/
def Obligations.FatalErrorsArePrecise : Prop :=
  ∀ (i : Instr) (s t : State) (cause : Cause), s.run = .running → exec i s = .next t → t.run = .halted cause →
    t = { s with run := .halted cause } ∧
    ((cause = .stackOverflow ∧ s.sp.val = 16 ∧ ∃ nnn, i = .call nnn) ∨
     (cause = .stackUnderflow ∧ s.sp.val = 0 ∧ i = .ret) ∨
     (cause = .keyIndexOutOfRange ∧ ∃ x, 15 < (s.reg x).toNat ∧ (i = .skp x ∨ i = .sknp x)))

/-- R144: an instruction leaves `PC` two or four bytes on, or at its target, or, raising a fatal error, where it was. -/
def Obligations.ProgramCounterAfterEachInstruction : Prop :=
  ∀ (i : Instr) (s t : State), s.run = .running → exec i s = .next t →
    (t.isHalted → t.pc = s.pc) ∧
    (¬ t.isHalted →
      match i with
      | .jp nnn => t.pc.toNat = nnn.toNat
      | .call nnn => t.pc.toNat = nnn.toNat
      | .ret => ∃ k : Fin 16, k.val + 1 = s.sp.val ∧ t.pc = s.stack[k.val]
      | .jpV0 nnn => t.pc.toNat = nnn.toNat + (s.reg 0).toNat
      | .seImm .. | .sneImm .. | .seReg .. | .sneReg .. | .skp .. | .sknp .. =>
        t.pc = s.pc + 2#16 ∨ t.pc = s.pc + 4#16
      | _ => t.pc = s.pc + 2#16)

/-- R42, R47: no instruction reads `OPC`. Running an instruction with another `OPC` gives the same next state but for
`OPC`, which the instruction does not write. -/
def Obligations.NoInstructionReadsTheOpcodeRegister : Prop :=
  ∀ (i : Instr) (s t : State) (w : Word), exec i s = .next t →
    t.opc = s.opc ∧ exec i { s with opc := w } = .next { t with opc := w }

/-! ### Which instructions write what -/

/-- R260, R39: of all operations of the core, only `00E0`, `Dxyn` and `reset()` change a pixel. -/
def Obligations.OnlyClearAndDrawChangePixels : Prop :=
  ∀ (s t : State), step s = .next t → ¬ Part.pixels.same s t →
    s.sched.head? = some .reset ∨
    (s.Fetches ∧ ∃ i, decodeWord s.fetchWord = .ok i ∧ (i = .cls ∨ ∃ x y n, i = .drw x y n))

/-- R70: no instruction but `Fx33` and `Fx55` changes a byte of memory, and each changes only bytes that `I` addresses:
three, or `x + 1`. -/
def Obligations.OnlyTwoInstructionsStoreToMemory : Prop :=
  ∀ (i : Instr) (s t : State) (a : Nat), exec i s = .next t → Memory.read t.mem a ≠ Memory.read s.mem a →
    ((∃ x, i = .ldBcd x) ∧ ∃ k < 3, a = ea s.i k) ∨ (∃ x, i = .storeRegs x ∧ ∃ k ≤ x.val, a = ea s.i k)

/-- R37, R242: no instruction but `2nnn` and `00EE` changes `SP` or a stack entry; `00EE` changes no entry, and `2nnn` only
the entry at the old `SP`. -/
def Obligations.OnlyCallAndReturnTouchTheStack : Prop :=
  ∀ (i : Instr) (s t : State), exec i s = .next t →
    (t.sp ≠ s.sp → i = .ret ∨ ∃ nnn, i = .call nnn) ∧
    (∀ k : Fin 16, t.stack[k.val] ≠ s.stack[k.val] → (∃ nnn, i = .call nnn) ∧ k.val = s.sp.val)

/-- R38: the tick, `Fx15` and `Fx18` (and the return to reset) are the only writers of the timers. -/
def Obligations.OnlyTicksAndTimerInstructionsWriteTimers : Prop :=
  ∀ (s t : State), step s = .next t → (t.dt ≠ s.dt ∨ t.st ≠ s.st) →
    s.sched.head? = some .tickTimers ∨ s.sched.head? = some .reset ∨
    (s.Fetches ∧ ∃ x, (decodeWord s.fetchWord = .ok (.ldDt x) ∧ t.st = s.st) ∨
      (decodeWord s.fetchWord = .ok (.ldSt x) ∧ t.dt = s.dt))

/-- R32: the instructions that write general registers, each only its own; every other instruction leaves all
sixteen. `Fx0A` writes none when it executes. -/
def Obligations.RegistersWrittenByEachInstruction : Prop :=
  ∀ (i : Instr) (s t : State) (r : Reg), exec i s = .next t → t.reg r ≠ s.reg r →
    match i with
    | .ldImm x _ | .addImm x _ | .ldReg x _ | .orReg x _ | .andReg x _ | .xorReg x _ | .rnd x _ | .ldVxDt x => r = x
    | .addReg x _ | .subReg x _ | .shr x | .subn x _ | .shl x => r = x ∨ r = VF
    | .drw .. => r = VF
    | .loadRegs x => r ≤ x
    | _ => False

/-! ### Halt, wait, reset and the invariant -/

/-- The halt of R313 and R323 (the spec's decision D18): in `HALTED` a `cycle()` changes nothing and returns `HALTED`; until a
`reset()` every step keeps the halt and changes nothing but the timers, which still tick. -/
def Obligations.OnlyResetLeavesTheHalt : Prop :=
  ∀ (s : State) (cause : Cause), s.loaded = true → s.run = .halted cause →
    cycleWithStatus s = .next (.halted, s) ∧
    ∀ t, step s = .next t → s.sched.head? ≠ some .reset →
      t.run = .halted cause ∧ KeepsAllBut [.delay, .sound, .schedule] s t ∧
      (s.sched.head? ≠ some .tickTimers → t.dt = s.dt ∧ t.st = s.st)

/-- The wait of R292 and R293 (level-triggered by the spec's decision D15): a suspended core stays suspended, with only
timers, inputs and schedule moving, through every step but a `keyPoll()` that finds a key down and a `reset()`. -/
def Obligations.OnlyKeyPollOrResetEndsTheWait : Prop :=
  ∀ (s t : State) (x : Reg), s.loaded = true → s.run = .awaitingKey x → step s = .next t →
    (t.run = .awaitingKey x ∧ KeepsAllBut [.delay, .sound, .keypad, .schedule] s t) ∨
    s.sched.head? = some .reset ∨
    (s.sched.head? = some .keyPoll ∧ ∃ k, s.keySample.anyPressedCode = some k ∧
      t.run = .running ∧ (t.reg x).toNat = k.val ∧ KeepsRegsBut x s t ∧
      KeepsAllBut [.regs, .run, .keypad, .schedule] s t)

/-- R50, R350, R351 (with the spec's own decisions D22, D23 and D27): construction, and `reset()` in any state, give
every element of the core the value of R50; a cycle is then refused until the next load. -/
def Obligations.ResetGivesEveryElementItsValue : Prop :=
  State.reset.HasResetValues ∧
  ∀ s : State, ∃ t, perform .reset s = .next t ∧ t.HasResetValues ∧ KeepsAllBut
    [.regs, .index, .pc, .stack, .delay, .sound, .pixels, .memory, .opcode, .run, .loaded] s t ∧
    cycle t = .refused .cycleBeforeLoad

/-- The state after reset meets the invariant. -/
def Obligations.ResetMeetsTheInvariant : Prop := State.reset.Inv

/-- Every step, of every operation, from every state that meets the invariant, keeps it. -/
def Obligations.EveryStepKeepsTheInvariant : Prop :=
  ∀ s t : State, s.Inv → step s = .next t → t.Inv

/-- R83, R358: a loaded core whose driver only cycles, ticks and polls never stops: any number of steps ends in a
state. -/
def Obligations.LoadedCoreNeverStops : Prop :=
  ∀ (k : Nat) (s : State), s.loaded = true →
    (∀ op ∈ s.sched, op = .cycle ∨ op = .tickTimers ∨ op = .keyPoll) →
    ∃ t : State, Host.Core.run core k s = .next t ∧ t.loaded = true

/-! ### ALU instructions -/

/-- R173, R175: `6xkk` and `8xy0` set `Vx` to the immediate or to `Vy` and advance `PC` by exactly 2; nothing else
changes. -/
def Obligations.LoadImmediateAndCopyRegister : Prop :=
  (∀ (x : Reg) (kk : Byte), decodeWord (BitVec.ofNat 16 (0x6000 + x.val * 0x100 + kk.toNat)) = .ok (.ldImm x kk)) ∧
  (∀ (x y : Reg), decodeWord (BitVec.ofNat 16 (0x8000 + x.val * 0x100 + y.val * 0x10)) = .ok (.ldReg x y)) ∧
  (∀ (s : State) (x : Reg) (kk : Byte), ∃ t, exec (.ldImm x kk) s = .next t ∧
    t.reg x = kk ∧ KeepsRegsBut x s t ∧ t.pc = s.pc + 2#16 ∧ KeepsAllBut [.regs, .pc] s t) ∧
  (∀ (s : State) (x y : Reg), ∃ t, exec (.ldReg x y) s = .next t ∧
    t.reg x = s.reg y ∧ KeepsRegsBut x s t ∧ t.pc = s.pc + 2#16 ∧ KeepsAllBut [.regs, .pc] s t)

/-- R174: `7xkk` adds `mod 256`, and `VF` is not written even when the sum exceeds `0xFF` (unless `x = F`). -/
def Obligations.AddImmediateWritesNoFlag : Prop :=
  (∀ (x : Reg) (kk : Byte), decodeWord (BitVec.ofNat 16 (0x7000 + x.val * 0x100 + kk.toNat)) = .ok (.addImm x kk)) ∧
  (∀ (s : State) (x : Reg) (kk : Byte), ∃ t, exec (.addImm x kk) s = .next t ∧
    (t.reg x).toNat = ((s.reg x).toNat + kk.toNat) % 256 ∧ KeepsRegsBut x s t ∧ t.pc = s.pc + 2#16 ∧
    KeepsAllBut [.regs, .pc] s t)

/-- R176 to R178: OR, AND and XOR, bit by bit, with no flag. -/
def Obligations.BitwiseOperationsWriteNoFlag : Prop :=
  (∀ (x y : Reg),
    decodeWord (BitVec.ofNat 16 (0x8001 + x.val * 0x100 + y.val * 0x10)) = .ok (.orReg x y) ∧
    decodeWord (BitVec.ofNat 16 (0x8002 + x.val * 0x100 + y.val * 0x10)) = .ok (.andReg x y) ∧
    decodeWord (BitVec.ofNat 16 (0x8003 + x.val * 0x100 + y.val * 0x10)) = .ok (.xorReg x y)) ∧
  (∀ (s : State) (x y : Reg), ∃ t, exec (.orReg x y) s = .next t ∧
    (∀ b, (t.reg x).getLsbD b = ((s.reg x).getLsbD b || (s.reg y).getLsbD b)) ∧ KeepsRegsBut x s t ∧
    t.pc = s.pc + 2#16 ∧ KeepsAllBut [.regs, .pc] s t) ∧
  (∀ (s : State) (x y : Reg), ∃ t, exec (.andReg x y) s = .next t ∧
    (∀ b, (t.reg x).getLsbD b = ((s.reg x).getLsbD b && (s.reg y).getLsbD b)) ∧ KeepsRegsBut x s t ∧
    t.pc = s.pc + 2#16 ∧ KeepsAllBut [.regs, .pc] s t) ∧
  (∀ (s : State) (x y : Reg), ∃ t, exec (.xorReg x y) s = .next t ∧
    (∀ b, (t.reg x).getLsbD b = ((s.reg x).getLsbD b ^^ (s.reg y).getLsbD b)) ∧ KeepsRegsBut x s t ∧
    t.pc = s.pc + 2#16 ∧ KeepsAllBut [.regs, .pc] s t)

/-- R179 with R172: `8xy4` writes the sum `mod 256` to `Vx` and then 1 or 0 to `VF`, so that with `x = F` the flag
stands and the sum is lost; operands are the old values. -/
def Obligations.AddSetsCarry : Prop :=
  (∀ (x y : Reg), decodeWord (BitVec.ofNat 16 (0x8004 + x.val * 0x100 + y.val * 0x10)) = .ok (.addReg x y)) ∧
  (∀ (s : State) (x y : Reg), ∃ t, exec (.addReg x y) s = .next t ∧
    (x ≠ VF → (t.reg x).toNat = ((s.reg x).toNat + (s.reg y).toNat) % 256) ∧
    (255 < (s.reg x).toNat + (s.reg y).toNat → t.reg VF = 1#8) ∧
    ((s.reg x).toNat + (s.reg y).toNat ≤ 255 → t.reg VF = 0#8) ∧
    (∀ r, r ≠ x → r ≠ VF → t.reg r = s.reg r) ∧ t.pc = s.pc + 2#16 ∧ KeepsAllBut [.regs, .pc] s t)

/-- R180, R182 with R172: `8xy5` and `8xy7` write the difference `mod 256` to `Vx` and then NOT borrow to `VF`, which is
1 at equality. -/
def Obligations.SubtractSetsNotBorrow : Prop :=
  (∀ (x y : Reg),
    decodeWord (BitVec.ofNat 16 (0x8005 + x.val * 0x100 + y.val * 0x10)) = .ok (.subReg x y) ∧
    decodeWord (BitVec.ofNat 16 (0x8007 + x.val * 0x100 + y.val * 0x10)) = .ok (.subn x y)) ∧
  (∀ (s : State) (x y : Reg), ∃ t, exec (.subReg x y) s = .next t ∧
    (x ≠ VF → (t.reg x).toNat = ((s.reg x).toNat + 256 - (s.reg y).toNat) % 256) ∧
    ((s.reg y).toNat ≤ (s.reg x).toNat → t.reg VF = 1#8) ∧
    ((s.reg x).toNat < (s.reg y).toNat → t.reg VF = 0#8) ∧
    (∀ r, r ≠ x → r ≠ VF → t.reg r = s.reg r) ∧ t.pc = s.pc + 2#16 ∧ KeepsAllBut [.regs, .pc] s t) ∧
  (∀ (s : State) (x y : Reg), ∃ t, exec (.subn x y) s = .next t ∧
    (x ≠ VF → (t.reg x).toNat = ((s.reg y).toNat + 256 - (s.reg x).toNat) % 256) ∧
    ((s.reg x).toNat ≤ (s.reg y).toNat → t.reg VF = 1#8) ∧
    ((s.reg y).toNat < (s.reg x).toNat → t.reg VF = 0#8) ∧
    (∀ r, r ≠ x → r ≠ VF → t.reg r = s.reg r) ∧ t.pc = s.pc + 2#16 ∧ KeepsAllBut [.regs, .pc] s t)

/-- R181, R183 with R172: `8xy6` halves `Vx` and `8xyE` doubles it `mod 256`, whatever `y` is; then `VF` is the bit
shifted out. -/
def Obligations.ShiftsSetTheBitShiftedOut : Prop :=
  (∀ (x : Reg), ∀ y < 16,
    decodeWord (BitVec.ofNat 16 (0x8006 + x.val * 0x100 + y * 0x10)) = .ok (.shr x) ∧
    decodeWord (BitVec.ofNat 16 (0x800E + x.val * 0x100 + y * 0x10)) = .ok (.shl x)) ∧
  (∀ (s : State) (x : Reg), ∃ t, exec (.shr x) s = .next t ∧
    (x ≠ VF → (t.reg x).toNat = (s.reg x).toNat / 2) ∧ (t.reg VF).toNat = (s.reg x).toNat % 2 ∧
    (∀ r, r ≠ x → r ≠ VF → t.reg r = s.reg r) ∧ t.pc = s.pc + 2#16 ∧ KeepsAllBut [.regs, .pc] s t) ∧
  (∀ (s : State) (x : Reg), ∃ t, exec (.shl x) s = .next t ∧
    (x ≠ VF → (t.reg x).toNat = (s.reg x).toNat * 2 % 256) ∧ (t.reg VF).toNat = (s.reg x).toNat / 128 ∧
    (∀ r, r ≠ x → r ≠ VF → t.reg r = s.reg r) ∧ t.pc = s.pc + 2#16 ∧ KeepsAllBut [.regs, .pc] s t)

/-- R185: `Cxkk` gives a drawn byte ANDed with `kk`, for every byte the source can give; it takes one value from the
port, and the value after the given ones is a free value. -/
def Obligations.RandomByteIsMasked : Prop :=
  (∀ (x : Reg) (kk : Byte), decodeWord (BitVec.ofNat 16 (0xC000 + x.val * 0x100 + kk.toNat)) = .ok (.rnd x kk)) ∧
  (∀ (s : State) (x : Reg) (kk : Byte), ∃ t, exec (.rnd x kk) s = .next t ∧
    (∀ r rest, s.random.given = r :: rest → t.random.given = rest ∧
      ∀ b, (t.reg x).getLsbD b = (r.getLsbD b && kk.getLsbD b)) ∧
    (s.random.given = [] → t.random.given = [] ∧
      ∀ b, (t.reg x).getLsbD b = ((Config.freeRandomByte s.random.taken).getLsbD b && kk.getLsbD b)) ∧
    t.random.taken = s.random.taken + 1 ∧ (kk = 0#8 → t.reg x = 0#8) ∧ KeepsRegsBut x s t ∧
    t.pc = s.pc + 2#16 ∧ KeepsAllBut [.regs, .pc, .random] s t)

/-! ### Index register and memory -/

/-- R201: `Annn` sets `I` to `nnn` and advances `PC` by 2; nothing else changes. -/
def Obligations.LoadIndexImmediate : Prop :=
  (∀ nnn : Imm12, decodeWord (BitVec.ofNat 16 (0xA000 + nnn.toNat)) = .ok (.ldI nnn)) ∧
  (∀ (s : State) (nnn : Imm12), ∃ t, exec (.ldI nnn) s = .next t ∧
    t.i.toNat = nnn.toNat ∧ t.pc = s.pc + 2#16 ∧ KeepsAllBut [.index, .pc] s t)

/-- `Fx1E` adds `Vx` to `I` `mod 2^16` and writes no flag (the spec's decision D7), and `Fx29` points `I` at
`0x050 + 5*Vx` for every `Vx`, with no mask (its decision D16). -/
def Obligations.AddToIndexAndPointAtGlyph : Prop :=
  (∀ x : Reg, decodeWord (BitVec.ofNat 16 (0xF01E + x.val * 0x100)) = .ok (.addI x) ∧
    decodeWord (BitVec.ofNat 16 (0xF029 + x.val * 0x100)) = .ok (.ldFont x)) ∧
  (∀ (s : State) (x : Reg), ∃ t, exec (.addI x) s = .next t ∧
    t.i.toNat = (s.i.toNat + (s.reg x).toNat) % 65536 ∧ t.pc = s.pc + 2#16 ∧ KeepsAllBut [.index, .pc] s t) ∧
  (∀ (s : State) (x : Reg), ∃ t, exec (.ldFont x) s = .next t ∧
    t.i.toNat = 0x050 + 5 * (s.reg x).toNat ∧ t.pc = s.pc + 2#16 ∧ KeepsAllBut [.index, .pc] s t)

/-- R204: `Fx33` writes the hundreds, tens and units digit of `Vx` to `EA(0)`, `EA(1)`, `EA(2)`, wrapping at `0xFFF`, and
no other byte. -/
def Obligations.BcdStoresThreeDigits : Prop :=
  (∀ x : Reg, decodeWord (BitVec.ofNat 16 (0xF033 + x.val * 0x100)) = .ok (.ldBcd x)) ∧
  (∀ (s : State) (x : Reg), Memory.wf s.mem = true → ∃ t, exec (.ldBcd x) s = .next t ∧
    (Memory.read t.mem (ea s.i 0)).toNat = (s.reg x).toNat / 100 ∧
    (Memory.read t.mem (ea s.i 1)).toNat = (s.reg x).toNat / 10 % 10 ∧
    (Memory.read t.mem (ea s.i 2)).toNat = (s.reg x).toNat % 10 ∧
    (∀ a, a ≠ ea s.i 0 → a ≠ ea s.i 1 → a ≠ ea s.i 2 → Memory.read t.mem a = Memory.read s.mem a) ∧
    t.pc = s.pc + 2#16 ∧ KeepsAllBut [.memory, .pc] s t)

/-- R205: `Fx55` writes `Vk` to `EA(k)` for every `k` in `0..x` and no other byte; `I` is unchanged. -/
def Obligations.StoreRegistersWritesTheRange : Prop :=
  (∀ x : Reg, decodeWord (BitVec.ofNat 16 (0xF055 + x.val * 0x100)) = .ok (.storeRegs x)) ∧
  (∀ (s : State) (x : Reg), Memory.wf s.mem = true → ∃ t, exec (.storeRegs x) s = .next t ∧
    (∀ k : Reg, k ≤ x → Memory.read t.mem (ea s.i k.val) = s.reg k) ∧
    (∀ a, (∀ k : Reg, k ≤ x → a ≠ ea s.i k.val) → Memory.read t.mem a = Memory.read s.mem a) ∧
    t.pc = s.pc + 2#16 ∧ KeepsAllBut [.memory, .pc] s t)

/-- R206: `Fx65` reads `Vk` from `EA(k)` for every `k` in `0..x`; the other registers, `I` and memory are unchanged. -/
def Obligations.LoadRegistersReadsTheRange : Prop :=
  (∀ x : Reg, decodeWord (BitVec.ofNat 16 (0xF065 + x.val * 0x100)) = .ok (.loadRegs x)) ∧
  (∀ (s : State) (x : Reg), ∃ t, exec (.loadRegs x) s = .next t ∧
    (∀ k : Reg, k ≤ x → t.reg k = Memory.read s.mem (ea s.i k.val)) ∧
    (∀ k : Reg, x < k → t.reg k = s.reg k) ∧ t.pc = s.pc + 2#16 ∧ KeepsAllBut [.regs, .pc] s t)

/-- R210: after `Fx55`, whatever is then written to the registers, `Fx65` with the same `x` restores `V0..Vx`; neither
modifies `I`. -/
def Obligations.StoreThenLoadRestoresRegisters : Prop :=
  ∀ (s t u : State) (x : Reg) (v : Vector Byte 16), Memory.wf s.mem = true →
    exec (.storeRegs x) s = .next t → exec (.loadRegs x) { t with v := v } = .next u →
    (∀ k : Reg, k ≤ x → u.reg k = s.reg k) ∧ t.i = s.i ∧ u.i = s.i

/-- R75, R79: a byte of memory reads as the byte last written to it, a write changes no other byte, and two memories in
canonical form that read the same everywhere are equal data. -/
def Obligations.MemoryBehavesAsPlainStorage : Prop :=
  (∀ (m : Memory) (a : Nat) (b : Byte), Memory.wf m = true → Memory.read (Memory.write m a b) a = b) ∧
  (∀ (m : Memory) (a c : Nat) (b : Byte), c ≠ a → Memory.read (Memory.write m a b) c = Memory.read m c) ∧
  (∀ m n : Memory, Memory.wf m = true → Memory.wf n = true →
    (∀ a, Memory.read m a = Memory.read n a) → m = n)

/-- R80, R81: the next fetch sees the bytes that `Fx55` stored, high byte first, when they lie at `PC + 2`. -/
def Obligations.FetchSeesStoredBytes : Prop :=
  ∀ (s t : State) (x : Reg), Memory.wf s.mem = true → exec (.storeRegs x) s = .next t →
    1 ≤ x.val → s.i = s.pc + 2#16 → (s.pc + 2#16).toNat ≤ 0xFFE →
    t.fetchWord.toNat = (s.reg 0).toNat * 256 + (s.reg 1).toNat

/-! ### Control flow -/

/-- R235: `1nnn` jumps to `nnn`; nothing else changes, and a target above `0xFFE` is no error when the jump executes. -/
def Obligations.JumpSetsProgramCounter : Prop :=
  (∀ nnn : Imm12, decodeWord (BitVec.ofNat 16 (0x1000 + nnn.toNat)) = .ok (.jp nnn)) ∧
  (∀ (s : State) (nnn : Imm12), ∃ t, exec (.jp nnn) s = .next t ∧
    t.pc.toNat = nnn.toNat ∧ KeepsAllBut [.pc] s t)

/-- `Bnnn` jumps to `nnn + V0`, a sum that is not reduced `mod 4096` (the spec's decision D5). -/
def Obligations.IndexedJumpAddsV0 : Prop :=
  (∀ nnn : Imm12, decodeWord (BitVec.ofNat 16 (0xB000 + nnn.toNat)) = .ok (.jpV0 nnn)) ∧
  (∀ (s : State) (nnn : Imm12), ∃ t, exec (.jpV0 nnn) s = .next t ∧
    t.pc.toNat = nnn.toNat + (s.reg 0).toNat ∧ KeepsAllBut [.pc] s t)

/-- R231, R236: `2nnn` writes the address after the call to `S[SP]`, increments `SP` and jumps to `nnn`; with `SP = 16`
it raises `STACK_OVERFLOW` and changes nothing but `run`. -/
def Obligations.CallPushesTheSuccessor : Prop :=
  (∀ nnn : Imm12, decodeWord (BitVec.ofNat 16 (0x2000 + nnn.toNat)) = .ok (.call nnn)) ∧
  (∀ (s : State) (nnn : Imm12) (k : Fin 16), s.sp.val = k.val → ∃ t, exec (.call nnn) s = .next t ∧
    t.stack[k.val] = s.pc + 2#16 ∧ t.sp.val = s.sp.val + 1 ∧ t.pc.toNat = nnn.toNat ∧
    (∀ j : Fin 16, j ≠ k → t.stack[j.val] = s.stack[j.val]) ∧ KeepsAllBut [.stack, .pc] s t) ∧
  (∀ (s : State) (nnn : Imm12), s.sp.val = 16 → ∃ t, exec (.call nnn) s = .next t ∧
    t.run = .halted .stackOverflow ∧ KeepsAllBut [.run] s t)

/-- R232, R234: `00EE` decrements `SP` and sets `PC` to the entry there, which is not cleared; with `SP = 0` it raises
`STACK_UNDERFLOW` and changes nothing but `run`. -/
def Obligations.ReturnPopsTheStack : Prop :=
  (∀ x < 16, decodeWord (BitVec.ofNat 16 (0x00EE + x * 0x100)) = .ok .ret) ∧
  (∀ (s : State) (k : Fin 16), s.sp.val = k.val + 1 → ∃ t, exec .ret s = .next t ∧
    t.pc = s.stack[k.val] ∧ t.sp.val = k.val ∧ (∀ j : Fin 16, t.stack[j.val] = s.stack[j.val]) ∧
    KeepsAllBut [.stack, .pc] s t) ∧
  (∀ s : State, s.sp.val = 0 → ∃ t, exec .ret s = .next t ∧
    t.run = .halted .stackUnderflow ∧ KeepsAllBut [.run] s t)

/-- The call and return of the source's example: a return after a call comes back to the call's successor, with the stack
pointer at its depth before the call and the return address left as a stale entry (R37, R234, R236). -/
def Obligations.ReturnComesBackAfterCall : Prop :=
  ∀ (s t : State) (nnn : Imm12), s.sp.val < 16 → exec (.call nnn) s = .next t →
    ∃ u, exec .ret t = .next u ∧ u.pc = s.pc + 2#16 ∧ u.sp = s.sp ∧
      KeepsAllBut [.stack, .pc] s u ∧ ∀ k : Fin 16, u.stack[k.val] = t.stack[k.val]

/-- R237, R238: `3xkk` skips when `Vx` equals the immediate and `4xkk` when it differs; a skip leaves `PC` 4 on, else it
is 2 on, and nothing else changes. -/
def Obligations.SkipsOnImmediate : Prop :=
  (∀ (x : Reg) (kk : Byte),
    decodeWord (BitVec.ofNat 16 (0x3000 + x.val * 0x100 + kk.toNat)) = .ok (.seImm x kk) ∧
    decodeWord (BitVec.ofNat 16 (0x4000 + x.val * 0x100 + kk.toNat)) = .ok (.sneImm x kk)) ∧
  (∀ (s : State) (x : Reg) (kk : Byte), ∃ t, exec (.seImm x kk) s = .next t ∧
    (s.reg x = kk → t.pc = s.pc + 4#16) ∧ (s.reg x ≠ kk → t.pc = s.pc + 2#16) ∧ KeepsAllBut [.pc] s t) ∧
  (∀ (s : State) (x : Reg) (kk : Byte), ∃ t, exec (.sneImm x kk) s = .next t ∧
    (s.reg x ≠ kk → t.pc = s.pc + 4#16) ∧ (s.reg x = kk → t.pc = s.pc + 2#16) ∧ KeepsAllBut [.pc] s t)

/-- `5xy0` skips when two registers are equal and `9xy0` when they differ, whatever the low nibble is (the spec's decision
D3). -/
def Obligations.SkipsOnRegisters : Prop :=
  (∀ (x y : Reg), ∀ n < 16,
    decodeWord (BitVec.ofNat 16 (0x5000 + x.val * 0x100 + y.val * 0x10 + n)) = .ok (.seReg x y) ∧
    decodeWord (BitVec.ofNat 16 (0x9000 + x.val * 0x100 + y.val * 0x10 + n)) = .ok (.sneReg x y)) ∧
  (∀ (s : State) (x y : Reg), ∃ t, exec (.seReg x y) s = .next t ∧
    (s.reg x = s.reg y → t.pc = s.pc + 4#16) ∧ (s.reg x ≠ s.reg y → t.pc = s.pc + 2#16) ∧
    KeepsAllBut [.pc] s t) ∧
  (∀ (s : State) (x y : Reg), ∃ t, exec (.sneReg x y) s = .next t ∧
    (s.reg x ≠ s.reg y → t.pc = s.pc + 4#16) ∧ (s.reg x = s.reg y → t.pc = s.pc + 2#16) ∧
    KeepsAllBut [.pc] s t)

/-! ### Display -/

/-- R261: `00E0` sets all 2048 pixels to 0 and writes nothing else but `PC`; executed twice it leaves what one
execution leaves. -/
def Obligations.ClearZeroesEveryPixel : Prop :=
  (∀ x < 16, decodeWord (BitVec.ofNat 16 (0x00E0 + x * 0x100)) = .ok .cls) ∧
  (∀ s : State, ∃ t, exec .cls s = .next t ∧ (∀ r c, Framebuffer.pixel t.fb r c = false) ∧
    t.pc = s.pc + 2#16 ∧ KeepsAllBut [.pixels, .pc] s t ∧
    ∃ u, exec .cls t = .next u ∧ u.fb = t.fb)

/-- R262 to R265: `Dxyn` flips exactly the pixels that the sprite's 1 bits land on, each coordinate wrapping, and sets
`VF` to 1 exactly when one of them was 1 before, else to 0. -/
def Obligations.DrawTogglesTheSpriteAndReportsCollision : Prop :=
  (∀ (x y : Reg) (n : Height),
    decodeWord (BitVec.ofNat 16 (0xD000 + x.val * 0x100 + y.val * 0x10 + n.val)) = .ok (.drw x y n)) ∧
  (∀ (s : State) (x y : Reg) (n : Height), ∃ t, exec (.drw x y n) s = .next t ∧
    (∀ r c, SpriteCovers s x y n r c → Framebuffer.pixel t.fb r c = !Framebuffer.pixel s.fb r c) ∧
    (∀ r c, ¬ SpriteCovers s x y n r c → Framebuffer.pixel t.fb r c = Framebuffer.pixel s.fb r c) ∧
    ((∃ r c, SpriteCovers s x y n r c ∧ Framebuffer.pixel s.fb r c = true) → t.reg VF = 1#8) ∧
    ((∀ r c, SpriteCovers s x y n r c → Framebuffer.pixel s.fb r c = false) → t.reg VF = 0#8) ∧
    KeepsRegsBut VF s t ∧ t.pc = s.pc + 2#16 ∧ KeepsAllBut [.regs, .pixels, .pc] s t)

/-- R265: after a draw `VF` is 1 exactly when a pixel went from 1 to 0, and otherwise 0; a pixel that goes from 0 to 1 never
sets it, and the flag reflects this draw alone. -/
def Obligations.CollisionIsAPixelGoingFromSetToClear : Prop :=
  ∀ (s : State) (x y : Reg) (n : Height), ∃ t, exec (.drw x y n) s = .next t ∧
    (t.reg VF = 1#8 ↔ ∃ r c, Framebuffer.pixel s.fb r c = true ∧ Framebuffer.pixel t.fb r c = false) ∧
    (t.reg VF = 0#8 ↔ ∀ r c, Framebuffer.pixel s.fb r c = true → Framebuffer.pixel t.fb r c = true)

/-- R262 (corner cases): drawing the same sprite twice at the same place restores the framebuffer. The second draw
reports a collision exactly when a covered pixel was 0 before the first: R262's "if the sprite has any 1 bit" holds
where the covered pixels were clear (assumption log 7). (`x` and `y` are not `F`, whose value the first draw replaces
by the flag.) -/
def Obligations.DrawingTwiceRestoresTheFramebuffer : Prop :=
  ∀ (s t u : State) (x y : Reg) (n : Height), x ≠ VF → y ≠ VF →
    exec (.drw x y n) s = .next t → exec (.drw x y n) t = .next u →
    u.fb = s.fb ∧
    (u.reg VF = 1#8 ↔ ∃ r c, SpriteCovers s x y n r c ∧ Framebuffer.pixel s.fb r c = false)

/-! ### Timers, keys and the driver's operations -/

/-- `Ex9E` skips when the key in `Vx` is pressed in the sample it takes, `ExA1` when it is not: the next given sample,
or with none given a free value; the port keeps the samples behind it. With `Vx > 15` both raise
`KEY_INDEX_OUT_OF_RANGE` before any query, and nothing but `run` changes (R280, R281, R282, and R290 and R316 by the
spec's decision D14; the port is the model's own, assumption log 2). -/
def Obligations.KeySkipsSampleTheKeypad : Prop :=
  (∀ x : Reg, decodeWord (BitVec.ofNat 16 (0xE09E + x.val * 0x100)) = .ok (.skp x) ∧
    decodeWord (BitVec.ofNat 16 (0xE0A1 + x.val * 0x100)) = .ok (.sknp x)) ∧
  (∀ (s : State) (x : Reg) (k : Key), (s.reg x).toNat = k.val → ∃ t, exec (.skp x) s = .next t ∧
    (∀ q rest, s.NextSample q rest → t.keypad.given = rest ∧
      (q.isPressed k = true → t.pc = s.pc + 4#16) ∧ (q.isPressed k = false → t.pc = s.pc + 2#16)) ∧
    t.keypad.taken = s.keypad.taken + 1 ∧ KeepsAllBut [.pc, .keypad] s t) ∧
  (∀ (s : State) (x : Reg) (k : Key), (s.reg x).toNat = k.val → ∃ t, exec (.sknp x) s = .next t ∧
    (∀ q rest, s.NextSample q rest → t.keypad.given = rest ∧
      (q.isPressed k = false → t.pc = s.pc + 4#16) ∧ (q.isPressed k = true → t.pc = s.pc + 2#16)) ∧
    t.keypad.taken = s.keypad.taken + 1 ∧ KeepsAllBut [.pc, .keypad] s t) ∧
  (∀ (s : State) (x : Reg), 15 < (s.reg x).toNat →
    (∃ t, exec (.skp x) s = .next t ∧ t.run = .halted .keyIndexOutOfRange ∧ KeepsAllBut [.run] s t) ∧
    (∃ t, exec (.sknp x) s = .next t ∧ t.run = .halted .keyIndexOutOfRange ∧ KeepsAllBut [.run] s t))

/-- R280: the two queries agree. `isPressed` says which keys are down, `anyPressedCode()` is `None` exactly when no
key is pressed, a code it gives is pressed, and every pressed key is given for some choice of the provider. -/
def Obligations.KeyQueriesAgree : Prop :=
  (∀ (q : KeySample) (k : Key), q.isPressed k = q.down[k.val]) ∧
  (∀ q : KeySample, q.anyPressedCode = none ↔ ∀ k, q.isPressed k = false) ∧
  (∀ (q : KeySample) (k : Key), q.anyPressedCode = some k → q.isPressed k = true) ∧
  (∀ (q : KeySample) (k : Key), q.isPressed k = true → { q with choice := k }.anyPressedCode = some k)

/-- R283, R285, R286: `Fx07` reads `DT` into `Vx`, `Fx15` writes `Vx` to `DT` and `Fx18` writes it to `ST`, which turns
the sound output on or off at once (R289, by the spec's decision D21); nothing else but `PC` changes. -/
def Obligations.TimerInstructionsMoveTheTimers : Prop :=
  (∀ x : Reg, decodeWord (BitVec.ofNat 16 (0xF007 + x.val * 0x100)) = .ok (.ldVxDt x) ∧
    decodeWord (BitVec.ofNat 16 (0xF015 + x.val * 0x100)) = .ok (.ldDt x) ∧
    decodeWord (BitVec.ofNat 16 (0xF018 + x.val * 0x100)) = .ok (.ldSt x)) ∧
  (∀ (s : State) (x : Reg), ∃ t, exec (.ldVxDt x) s = .next t ∧
    t.reg x = s.dt ∧ KeepsRegsBut x s t ∧ t.pc = s.pc + 2#16 ∧ KeepsAllBut [.regs, .pc] s t) ∧
  (∀ (s : State) (x : Reg), ∃ t, exec (.ldDt x) s = .next t ∧
    t.dt = s.reg x ∧ t.pc = s.pc + 2#16 ∧ KeepsAllBut [.delay, .pc] s t) ∧
  (∀ (s : State) (x : Reg), ∃ t, exec (.ldSt x) s = .next t ∧
    t.st = s.reg x ∧ (t.soundActive = true ↔ s.reg x ≠ 0#8) ∧ t.pc = s.pc + 2#16 ∧
    KeepsAllBut [.sound, .pc] s t)

/-- R284: `Fx0A` suspends the core with target `Vx` and leaves `PC` at the next instruction; it looks at no key and writes
no register. -/
def Obligations.KeyWaitSuspendsTheCore : Prop :=
  (∀ x : Reg, decodeWord (BitVec.ofNat 16 (0xF00A + x.val * 0x100)) = .ok (.ldVxKey x)) ∧
  (∀ (s : State) (x : Reg), ∃ t, exec (.ldVxKey x) s = .next t ∧
    t.run = .awaitingKey x ∧ t.pc = s.pc + 2#16 ∧ KeepsAllBut [.run, .pc] s t)

/-- R292: in a wait `keyPoll()` takes the next sample, a given one or else a free value, and the port keeps the samples
behind it; it ends the wait exactly when the sample has a key down, writing its code to the target register. In `RUN`
and `HALTED` it has no effect and takes no sample (the port is the model's own, assumption log 2). -/
def Obligations.KeyPollCompletesTheWait : Prop :=
  (∀ (s : State) (x : Reg) (q : KeySample) (rest : List KeySample) (k : Key),
    s.run = .awaitingKey x → s.NextSample q rest → q.anyPressedCode = some k →
    ∃ t, perform .keyPoll s = .next t ∧ (t.reg x).toNat = k.val ∧ t.run = .running ∧ KeepsRegsBut x s t ∧
      t.keypad.given = rest ∧ t.keypad.taken = s.keypad.taken + 1 ∧ KeepsAllBut [.regs, .run, .keypad] s t) ∧
  (∀ (s : State) (x : Reg) (q : KeySample) (rest : List KeySample),
    s.run = .awaitingKey x → s.NextSample q rest → q.anyPressedCode = none →
    ∃ t, perform .keyPoll s = .next t ∧ t.keypad.given = rest ∧ t.keypad.taken = s.keypad.taken + 1 ∧
      KeepsAllBut [.keypad] s t) ∧
  (∀ s : State, (s.run = .running ∨ s.isHalted) → perform .keyPoll s = .next s)

/-- R287: a tick decrements each timer that is not 0 by exactly 1 and leaves a timer at 0. It does so in every run state
and changes nothing else (R288, by the spec's decision D20). -/
def Obligations.TickDecrementsBothTimers : Prop :=
  ∀ s : State, ∃ t, perform .tickTimers s = .next t ∧
    t.dt.toNat = s.dt.toNat - 1 ∧ t.st.toNat = s.st.toNat - 1 ∧ KeepsAllBut [.delay, .sound] s t

/-- R355, R352, R74: a load of at most 3584 bytes puts glyph `d` at `0x050 + 5*d` and the image at `0x200`, sets
`loaded`, and changes no other byte and no other element; after an empty image the first fetch reads `0x0000`,
an unknown opcode. -/
def Obligations.LoadPlacesFontAndImage : Prop :=
  ∀ (s : State) (font : Font) (image : List Byte), Memory.wf s.mem = true → s.loaded = false →
    image.length ≤ 3584 →
    loadResult image = .loadOk ∧
    ∃ t, perform (.load font image) s = .next t ∧ t.loaded = true ∧
      (∀ (d : Fin 16) (k : Fin 5), Memory.read t.mem (0x050 + 5 * d.val + k.val) = font[d.val][k.val]) ∧
      (∀ (k : Nat) (h : k < image.length), Memory.read t.mem (0x200 + k) = image[k]) ∧
      (∀ a, (a < 0x050 ∨ 0x0A0 ≤ a) → (a < 0x200 ∨ 0x200 + image.length ≤ a) →
        Memory.read t.mem a = Memory.read s.mem a) ∧
      KeepsAllBut [.memory, .loaded] s t ∧
      (image = [] → s.HasResetValues → t.fetchWord = 0x0000#16 ∧
        decodeWord 0x0000#16 = .error (.unknownOpcode 0x0000#16))

/-- R354, R356: a load of more than 3584 bytes is rejected and nothing is written; a load when one is loaded is
refused. -/
def Obligations.LoadRejectsTooLargeAndSecondImages : Prop :=
  (∀ (s : State) (font : Font) (image : List Byte), s.loaded = false → 3584 < image.length →
    loadResult image = .imageTooLarge ∧ perform (.load font image) s = .next s) ∧
  (∀ (s : State) (font : Font) (image : List Byte), s.loaded = true →
    perform (.load font image) s = .refused .loadTwice)

/-- R266: the framebuffer read port shows 2048 pixels in row-major order, pixel `(r, c)` at index `r*64 + c`. -/
def Obligations.FramebufferPortIsRowMajor : Prop :=
  ∀ s : State, s.framebufferPort.length = 2048 ∧
    ∀ (r : Fin 32) (c : Fin 64), s.framebufferPort[r.val * 64 + c.val]? = some (Framebuffer.pixel s.fb r c)
end

