-- ==== Sys2Proof/Laws/Decode.lean ====
section
/-! SUPPORT. What the fields of a word of each format are, and that every word is made of its fields. -/

namespace Sys2Proof

variable {op : Nat}

/-! ### Format `xkk` -/

theorem opField_ofXkk (h : op < 16) (x : Reg) (kk : Byte) : opField (ofXkk op x kk) = op := by
  have := x.isLt
  have := kk.isLt
  simp only [opField, field, ofXkk, BitVec.toNat_ofNat]
  omega

theorem xField_ofXkk (op : Nat) (x : Reg) (kk : Byte) : xField (ofXkk op x kk) = x := by
  have := x.isLt
  have := kk.isLt
  apply Fin.ext
  simp only [xField, Fin.ofNat, field, ofXkk, BitVec.toNat_ofNat]
  omega

theorem low_ofXkk (op : Nat) (x : Reg) (kk : Byte) : field (ofXkk op x kk) 7 0 = kk.toNat := by
  have := x.isLt
  have := kk.isLt
  simp only [field, ofXkk, BitVec.toNat_ofNat]
  omega

theorem kkField_ofXkk (op : Nat) (x : Reg) (kk : Byte) : kkField (ofXkk op x kk) = kk := by
  simp only [kkField, low_ofXkk, BitVec.ofNat_toNat, BitVec.setWidth_eq]

/-! ### Format `nnn` -/

theorem opField_ofNnn (h : op < 16) (nnn : Imm12) : opField (ofNnn op nnn) = op := by
  have := nnn.isLt
  simp only [opField, field, ofNnn, BitVec.toNat_ofNat]
  omega

theorem nnnField_ofNnn (op : Nat) (nnn : Imm12) : nnnField (ofNnn op nnn) = nnn := by
  have := nnn.isLt
  apply BitVec.eq_of_toNat_eq
  simp only [nnnField, field, ofNnn, BitVec.toNat_ofNat]
  omega

/-! ### Four nibbles -/

theorem opField_ofNibbles {a b c d : Nat} (ha : a < 16) (hb : b < 16) (hc : c < 16) (hd : d < 16) :
    opField (ofNibbles a b c d) = a := by
  simp only [opField, field, ofNibbles, BitVec.toNat_ofNat]
  omega

theorem xField_ofNibbles (a : Nat) (x : Reg) {c d : Nat} (hc : c < 16) (hd : d < 16) :
    xField (ofNibbles a x.val c d) = x := by
  have := x.isLt
  apply Fin.ext
  simp only [xField, Fin.ofNat, field, ofNibbles, BitVec.toNat_ofNat]
  omega

theorem yField_ofNibbles (a b : Nat) (y : Reg) {d : Nat} (hd : d < 16) :
    yField (ofNibbles a b y.val d) = y := by
  have := y.isLt
  apply Fin.ext
  simp only [yField, Fin.ofNat, field, ofNibbles, BitVec.toNat_ofNat]
  omega

theorem nField_ofNibbles (a b c : Nat) (n : Height) : nField (ofNibbles a b c n.val) = n := by
  have := n.isLt
  apply Fin.ext
  simp only [nField, Fin.ofNat, field, ofNibbles, BitVec.toNat_ofNat]
  omega

theorem nibble_ofNibbles (a b c : Nat) {d : Nat} (hd : d < 16) : field (ofNibbles a b c d) 3 0 = d := by
  simp only [field, ofNibbles, BitVec.toNat_ofNat]
  omega

/-! ### A word and its bytes -/

/-- A word is put together again from the two bytes that memory holds (R76). -/
theorem wordOfBytes_bytesOfWord (w : Word) :
    wordOfBytes (BitVec.ofNat 8 (w.toNat / 256)) (BitVec.ofNat 8 (w.toNat % 256)) = w := by
  have := w.isLt
  apply BitVec.eq_of_toNat_eq
  simp only [wordOfBytes, BitVec.toNat_ofNat]
  omega

/-- A word is `op`, `x`, `y` and `n`, each a 4-bit number. -/
theorem toNat_eq_fields (w : Word) :
    w.toNat = opField w * 4096 + field w 11 8 * 256 + field w 7 4 * 16 + field w 3 0 := by
  have := w.isLt
  simp only [opField, field]
  omega

theorem toNat_wordOfBytes (hi lo : Byte) : (wordOfBytes hi lo).toNat = hi.toNat * 256 + lo.toNat := by
  have := hi.isLt
  have := lo.isLt
  simp only [wordOfBytes, BitVec.toNat_ofNat]
  omega

/-- A word that does not decode is rejected by its own name. -/
theorem decodeWord_error {w : Word} {e : DecodeError} (h : decodeWord w = .error e) : e = .unknownOpcode w := by
  unfold decodeWord at h
  split at h
  all_goals try split at h
  all_goals simp_all

end Sys2Proof
end

