-- ==== Sys2Proof/Laws/State.lean ====
section
/-! SUPPORT. For every named update of the state: each field after it, and what its registers read as. A proof
cites these and unfolds no update. -/

namespace Sys2Proof.Machine

variable (s : State)

/-! ### One lemma per field per update -/

@[simp] theorem State.setReg_v (x : Reg) (b : Byte) : (s.setReg x b).v = s.v.set x.val b := rfl
@[simp] theorem State.setReg_i (x : Reg) (b : Byte) : (s.setReg x b).i = s.i := rfl
@[simp] theorem State.setReg_pc (x : Reg) (b : Byte) : (s.setReg x b).pc = s.pc := rfl
@[simp] theorem State.setReg_sp (x : Reg) (b : Byte) : (s.setReg x b).sp = s.sp := rfl
@[simp] theorem State.setReg_stack (x : Reg) (b : Byte) : (s.setReg x b).stack = s.stack := rfl
@[simp] theorem State.setReg_dt (x : Reg) (b : Byte) : (s.setReg x b).dt = s.dt := rfl
@[simp] theorem State.setReg_st (x : Reg) (b : Byte) : (s.setReg x b).st = s.st := rfl
@[simp] theorem State.setReg_fb (x : Reg) (b : Byte) : (s.setReg x b).fb = s.fb := rfl
@[simp] theorem State.setReg_mem (x : Reg) (b : Byte) : (s.setReg x b).mem = s.mem := rfl
@[simp] theorem State.setReg_opc (x : Reg) (b : Byte) : (s.setReg x b).opc = s.opc := rfl
@[simp] theorem State.setReg_run (x : Reg) (b : Byte) : (s.setReg x b).run = s.run := rfl
@[simp] theorem State.setReg_loaded (x : Reg) (b : Byte) : (s.setReg x b).loaded = s.loaded := rfl
@[simp] theorem State.setReg_random (x : Reg) (b : Byte) : (s.setReg x b).random = s.random := rfl
@[simp] theorem State.setReg_keypad (x : Reg) (b : Byte) : (s.setReg x b).keypad = s.keypad := rfl
@[simp] theorem State.setReg_sched (x : Reg) (b : Byte) : (s.setReg x b).sched = s.sched := rfl

@[simp] theorem State.setI_v (w : Word) : (s.setI w).v = s.v := rfl
@[simp] theorem State.setI_i (w : Word) : (s.setI w).i = w := rfl
@[simp] theorem State.setI_pc (w : Word) : (s.setI w).pc = s.pc := rfl
@[simp] theorem State.setI_sp (w : Word) : (s.setI w).sp = s.sp := rfl
@[simp] theorem State.setI_stack (w : Word) : (s.setI w).stack = s.stack := rfl
@[simp] theorem State.setI_dt (w : Word) : (s.setI w).dt = s.dt := rfl
@[simp] theorem State.setI_st (w : Word) : (s.setI w).st = s.st := rfl
@[simp] theorem State.setI_fb (w : Word) : (s.setI w).fb = s.fb := rfl
@[simp] theorem State.setI_mem (w : Word) : (s.setI w).mem = s.mem := rfl
@[simp] theorem State.setI_opc (w : Word) : (s.setI w).opc = s.opc := rfl
@[simp] theorem State.setI_run (w : Word) : (s.setI w).run = s.run := rfl
@[simp] theorem State.setI_loaded (w : Word) : (s.setI w).loaded = s.loaded := rfl
@[simp] theorem State.setI_random (w : Word) : (s.setI w).random = s.random := rfl
@[simp] theorem State.setI_keypad (w : Word) : (s.setI w).keypad = s.keypad := rfl
@[simp] theorem State.setI_sched (w : Word) : (s.setI w).sched = s.sched := rfl

@[simp] theorem State.setDt_v (b : Byte) : (s.setDt b).v = s.v := rfl
@[simp] theorem State.setDt_i (b : Byte) : (s.setDt b).i = s.i := rfl
@[simp] theorem State.setDt_pc (b : Byte) : (s.setDt b).pc = s.pc := rfl
@[simp] theorem State.setDt_sp (b : Byte) : (s.setDt b).sp = s.sp := rfl
@[simp] theorem State.setDt_stack (b : Byte) : (s.setDt b).stack = s.stack := rfl
@[simp] theorem State.setDt_dt (b : Byte) : (s.setDt b).dt = b := rfl
@[simp] theorem State.setDt_st (b : Byte) : (s.setDt b).st = s.st := rfl
@[simp] theorem State.setDt_fb (b : Byte) : (s.setDt b).fb = s.fb := rfl
@[simp] theorem State.setDt_mem (b : Byte) : (s.setDt b).mem = s.mem := rfl
@[simp] theorem State.setDt_opc (b : Byte) : (s.setDt b).opc = s.opc := rfl
@[simp] theorem State.setDt_run (b : Byte) : (s.setDt b).run = s.run := rfl
@[simp] theorem State.setDt_loaded (b : Byte) : (s.setDt b).loaded = s.loaded := rfl
@[simp] theorem State.setDt_random (b : Byte) : (s.setDt b).random = s.random := rfl
@[simp] theorem State.setDt_keypad (b : Byte) : (s.setDt b).keypad = s.keypad := rfl
@[simp] theorem State.setDt_sched (b : Byte) : (s.setDt b).sched = s.sched := rfl

@[simp] theorem State.setSt_v (b : Byte) : (s.setSt b).v = s.v := rfl
@[simp] theorem State.setSt_i (b : Byte) : (s.setSt b).i = s.i := rfl
@[simp] theorem State.setSt_pc (b : Byte) : (s.setSt b).pc = s.pc := rfl
@[simp] theorem State.setSt_sp (b : Byte) : (s.setSt b).sp = s.sp := rfl
@[simp] theorem State.setSt_stack (b : Byte) : (s.setSt b).stack = s.stack := rfl
@[simp] theorem State.setSt_dt (b : Byte) : (s.setSt b).dt = s.dt := rfl
@[simp] theorem State.setSt_st (b : Byte) : (s.setSt b).st = b := rfl
@[simp] theorem State.setSt_fb (b : Byte) : (s.setSt b).fb = s.fb := rfl
@[simp] theorem State.setSt_mem (b : Byte) : (s.setSt b).mem = s.mem := rfl
@[simp] theorem State.setSt_opc (b : Byte) : (s.setSt b).opc = s.opc := rfl
@[simp] theorem State.setSt_run (b : Byte) : (s.setSt b).run = s.run := rfl
@[simp] theorem State.setSt_loaded (b : Byte) : (s.setSt b).loaded = s.loaded := rfl
@[simp] theorem State.setSt_random (b : Byte) : (s.setSt b).random = s.random := rfl
@[simp] theorem State.setSt_keypad (b : Byte) : (s.setSt b).keypad = s.keypad := rfl
@[simp] theorem State.setSt_sched (b : Byte) : (s.setSt b).sched = s.sched := rfl

@[simp] theorem State.setMem_v (m : Memory) : (s.setMem m).v = s.v := rfl
@[simp] theorem State.setMem_i (m : Memory) : (s.setMem m).i = s.i := rfl
@[simp] theorem State.setMem_pc (m : Memory) : (s.setMem m).pc = s.pc := rfl
@[simp] theorem State.setMem_sp (m : Memory) : (s.setMem m).sp = s.sp := rfl
@[simp] theorem State.setMem_stack (m : Memory) : (s.setMem m).stack = s.stack := rfl
@[simp] theorem State.setMem_dt (m : Memory) : (s.setMem m).dt = s.dt := rfl
@[simp] theorem State.setMem_st (m : Memory) : (s.setMem m).st = s.st := rfl
@[simp] theorem State.setMem_fb (m : Memory) : (s.setMem m).fb = s.fb := rfl
@[simp] theorem State.setMem_mem (m : Memory) : (s.setMem m).mem = m := rfl
@[simp] theorem State.setMem_opc (m : Memory) : (s.setMem m).opc = s.opc := rfl
@[simp] theorem State.setMem_run (m : Memory) : (s.setMem m).run = s.run := rfl
@[simp] theorem State.setMem_loaded (m : Memory) : (s.setMem m).loaded = s.loaded := rfl
@[simp] theorem State.setMem_random (m : Memory) : (s.setMem m).random = s.random := rfl
@[simp] theorem State.setMem_keypad (m : Memory) : (s.setMem m).keypad = s.keypad := rfl
@[simp] theorem State.setMem_sched (m : Memory) : (s.setMem m).sched = s.sched := rfl

@[simp] theorem State.setFb_v (fb : Framebuffer) : (s.setFb fb).v = s.v := rfl
@[simp] theorem State.setFb_i (fb : Framebuffer) : (s.setFb fb).i = s.i := rfl
@[simp] theorem State.setFb_pc (fb : Framebuffer) : (s.setFb fb).pc = s.pc := rfl
@[simp] theorem State.setFb_sp (fb : Framebuffer) : (s.setFb fb).sp = s.sp := rfl
@[simp] theorem State.setFb_stack (fb : Framebuffer) : (s.setFb fb).stack = s.stack := rfl
@[simp] theorem State.setFb_dt (fb : Framebuffer) : (s.setFb fb).dt = s.dt := rfl
@[simp] theorem State.setFb_st (fb : Framebuffer) : (s.setFb fb).st = s.st := rfl
@[simp] theorem State.setFb_fb (fb : Framebuffer) : (s.setFb fb).fb = fb := rfl
@[simp] theorem State.setFb_mem (fb : Framebuffer) : (s.setFb fb).mem = s.mem := rfl
@[simp] theorem State.setFb_opc (fb : Framebuffer) : (s.setFb fb).opc = s.opc := rfl
@[simp] theorem State.setFb_run (fb : Framebuffer) : (s.setFb fb).run = s.run := rfl
@[simp] theorem State.setFb_loaded (fb : Framebuffer) : (s.setFb fb).loaded = s.loaded := rfl
@[simp] theorem State.setFb_random (fb : Framebuffer) : (s.setFb fb).random = s.random := rfl
@[simp] theorem State.setFb_keypad (fb : Framebuffer) : (s.setFb fb).keypad = s.keypad := rfl
@[simp] theorem State.setFb_sched (fb : Framebuffer) : (s.setFb fb).sched = s.sched := rfl

@[simp] theorem State.setRun_v (r : RunState) : (s.setRun r).v = s.v := rfl
@[simp] theorem State.setRun_i (r : RunState) : (s.setRun r).i = s.i := rfl
@[simp] theorem State.setRun_pc (r : RunState) : (s.setRun r).pc = s.pc := rfl
@[simp] theorem State.setRun_sp (r : RunState) : (s.setRun r).sp = s.sp := rfl
@[simp] theorem State.setRun_stack (r : RunState) : (s.setRun r).stack = s.stack := rfl
@[simp] theorem State.setRun_dt (r : RunState) : (s.setRun r).dt = s.dt := rfl
@[simp] theorem State.setRun_st (r : RunState) : (s.setRun r).st = s.st := rfl
@[simp] theorem State.setRun_fb (r : RunState) : (s.setRun r).fb = s.fb := rfl
@[simp] theorem State.setRun_mem (r : RunState) : (s.setRun r).mem = s.mem := rfl
@[simp] theorem State.setRun_opc (r : RunState) : (s.setRun r).opc = s.opc := rfl
@[simp] theorem State.setRun_run (r : RunState) : (s.setRun r).run = r := rfl
@[simp] theorem State.setRun_loaded (r : RunState) : (s.setRun r).loaded = s.loaded := rfl
@[simp] theorem State.setRun_random (r : RunState) : (s.setRun r).random = s.random := rfl
@[simp] theorem State.setRun_keypad (r : RunState) : (s.setRun r).keypad = s.keypad := rfl
@[simp] theorem State.setRun_sched (r : RunState) : (s.setRun r).sched = s.sched := rfl

@[simp] theorem State.setOpc_v (w : Word) : (s.setOpc w).v = s.v := rfl
@[simp] theorem State.setOpc_i (w : Word) : (s.setOpc w).i = s.i := rfl
@[simp] theorem State.setOpc_pc (w : Word) : (s.setOpc w).pc = s.pc := rfl
@[simp] theorem State.setOpc_sp (w : Word) : (s.setOpc w).sp = s.sp := rfl
@[simp] theorem State.setOpc_stack (w : Word) : (s.setOpc w).stack = s.stack := rfl
@[simp] theorem State.setOpc_dt (w : Word) : (s.setOpc w).dt = s.dt := rfl
@[simp] theorem State.setOpc_st (w : Word) : (s.setOpc w).st = s.st := rfl
@[simp] theorem State.setOpc_fb (w : Word) : (s.setOpc w).fb = s.fb := rfl
@[simp] theorem State.setOpc_mem (w : Word) : (s.setOpc w).mem = s.mem := rfl
@[simp] theorem State.setOpc_opc (w : Word) : (s.setOpc w).opc = w := rfl
@[simp] theorem State.setOpc_run (w : Word) : (s.setOpc w).run = s.run := rfl
@[simp] theorem State.setOpc_loaded (w : Word) : (s.setOpc w).loaded = s.loaded := rfl
@[simp] theorem State.setOpc_random (w : Word) : (s.setOpc w).random = s.random := rfl
@[simp] theorem State.setOpc_keypad (w : Word) : (s.setOpc w).keypad = s.keypad := rfl
@[simp] theorem State.setOpc_sched (w : Word) : (s.setOpc w).sched = s.sched := rfl

@[simp] theorem State.jump_v (w : Word) : (s.jump w).v = s.v := rfl
@[simp] theorem State.jump_i (w : Word) : (s.jump w).i = s.i := rfl
@[simp] theorem State.jump_pc (w : Word) : (s.jump w).pc = w := rfl
@[simp] theorem State.jump_sp (w : Word) : (s.jump w).sp = s.sp := rfl
@[simp] theorem State.jump_stack (w : Word) : (s.jump w).stack = s.stack := rfl
@[simp] theorem State.jump_dt (w : Word) : (s.jump w).dt = s.dt := rfl
@[simp] theorem State.jump_st (w : Word) : (s.jump w).st = s.st := rfl
@[simp] theorem State.jump_fb (w : Word) : (s.jump w).fb = s.fb := rfl
@[simp] theorem State.jump_mem (w : Word) : (s.jump w).mem = s.mem := rfl
@[simp] theorem State.jump_opc (w : Word) : (s.jump w).opc = s.opc := rfl
@[simp] theorem State.jump_run (w : Word) : (s.jump w).run = s.run := rfl
@[simp] theorem State.jump_loaded (w : Word) : (s.jump w).loaded = s.loaded := rfl
@[simp] theorem State.jump_random (w : Word) : (s.jump w).random = s.random := rfl
@[simp] theorem State.jump_keypad (w : Word) : (s.jump w).keypad = s.keypad := rfl
@[simp] theorem State.jump_sched (w : Word) : (s.jump w).sched = s.sched := rfl

@[simp] theorem State.advance_v : (s.advance).v = s.v := rfl
@[simp] theorem State.advance_i : (s.advance).i = s.i := rfl
@[simp] theorem State.advance_pc : (s.advance).pc = s.pc + 2#16 := rfl
@[simp] theorem State.advance_sp : (s.advance).sp = s.sp := rfl
@[simp] theorem State.advance_stack : (s.advance).stack = s.stack := rfl
@[simp] theorem State.advance_dt : (s.advance).dt = s.dt := rfl
@[simp] theorem State.advance_st : (s.advance).st = s.st := rfl
@[simp] theorem State.advance_fb : (s.advance).fb = s.fb := rfl
@[simp] theorem State.advance_mem : (s.advance).mem = s.mem := rfl
@[simp] theorem State.advance_opc : (s.advance).opc = s.opc := rfl
@[simp] theorem State.advance_run : (s.advance).run = s.run := rfl
@[simp] theorem State.advance_loaded : (s.advance).loaded = s.loaded := rfl
@[simp] theorem State.advance_random : (s.advance).random = s.random := rfl
@[simp] theorem State.advance_keypad : (s.advance).keypad = s.keypad := rfl
@[simp] theorem State.advance_sched : (s.advance).sched = s.sched := rfl

@[simp] theorem State.skipIf_v (c : Bool) : (s.skipIf c).v = s.v := rfl
@[simp] theorem State.skipIf_i (c : Bool) : (s.skipIf c).i = s.i := rfl
@[simp] theorem State.skipIf_pc (c : Bool) : (s.skipIf c).pc = s.pc + if c then 4#16 else 2#16 := rfl
@[simp] theorem State.skipIf_sp (c : Bool) : (s.skipIf c).sp = s.sp := rfl
@[simp] theorem State.skipIf_stack (c : Bool) : (s.skipIf c).stack = s.stack := rfl
@[simp] theorem State.skipIf_dt (c : Bool) : (s.skipIf c).dt = s.dt := rfl
@[simp] theorem State.skipIf_st (c : Bool) : (s.skipIf c).st = s.st := rfl
@[simp] theorem State.skipIf_fb (c : Bool) : (s.skipIf c).fb = s.fb := rfl
@[simp] theorem State.skipIf_mem (c : Bool) : (s.skipIf c).mem = s.mem := rfl
@[simp] theorem State.skipIf_opc (c : Bool) : (s.skipIf c).opc = s.opc := rfl
@[simp] theorem State.skipIf_run (c : Bool) : (s.skipIf c).run = s.run := rfl
@[simp] theorem State.skipIf_loaded (c : Bool) : (s.skipIf c).loaded = s.loaded := rfl
@[simp] theorem State.skipIf_random (c : Bool) : (s.skipIf c).random = s.random := rfl
@[simp] theorem State.skipIf_keypad (c : Bool) : (s.skipIf c).keypad = s.keypad := rfl
@[simp] theorem State.skipIf_sched (c : Bool) : (s.skipIf c).sched = s.sched := rfl

@[simp] theorem State.setFlag_v (c : Bool) : (s.setFlag c).v = s.v.set VF.val (if c then 1#8 else 0#8) := rfl
@[simp] theorem State.setFlag_i (c : Bool) : (s.setFlag c).i = s.i := rfl
@[simp] theorem State.setFlag_pc (c : Bool) : (s.setFlag c).pc = s.pc := rfl
@[simp] theorem State.setFlag_sp (c : Bool) : (s.setFlag c).sp = s.sp := rfl
@[simp] theorem State.setFlag_stack (c : Bool) : (s.setFlag c).stack = s.stack := rfl
@[simp] theorem State.setFlag_dt (c : Bool) : (s.setFlag c).dt = s.dt := rfl
@[simp] theorem State.setFlag_st (c : Bool) : (s.setFlag c).st = s.st := rfl
@[simp] theorem State.setFlag_fb (c : Bool) : (s.setFlag c).fb = s.fb := rfl
@[simp] theorem State.setFlag_mem (c : Bool) : (s.setFlag c).mem = s.mem := rfl
@[simp] theorem State.setFlag_opc (c : Bool) : (s.setFlag c).opc = s.opc := rfl
@[simp] theorem State.setFlag_run (c : Bool) : (s.setFlag c).run = s.run := rfl
@[simp] theorem State.setFlag_loaded (c : Bool) : (s.setFlag c).loaded = s.loaded := rfl
@[simp] theorem State.setFlag_random (c : Bool) : (s.setFlag c).random = s.random := rfl
@[simp] theorem State.setFlag_keypad (c : Bool) : (s.setFlag c).keypad = s.keypad := rfl
@[simp] theorem State.setFlag_sched (c : Bool) : (s.setFlag c).sched = s.sched := rfl

@[simp] theorem State.drawRandom_v : (s.drawRandom).v = s.v := rfl
@[simp] theorem State.drawRandom_i : (s.drawRandom).i = s.i := rfl
@[simp] theorem State.drawRandom_pc : (s.drawRandom).pc = s.pc := rfl
@[simp] theorem State.drawRandom_sp : (s.drawRandom).sp = s.sp := rfl
@[simp] theorem State.drawRandom_stack : (s.drawRandom).stack = s.stack := rfl
@[simp] theorem State.drawRandom_dt : (s.drawRandom).dt = s.dt := rfl
@[simp] theorem State.drawRandom_st : (s.drawRandom).st = s.st := rfl
@[simp] theorem State.drawRandom_fb : (s.drawRandom).fb = s.fb := rfl
@[simp] theorem State.drawRandom_mem : (s.drawRandom).mem = s.mem := rfl
@[simp] theorem State.drawRandom_opc : (s.drawRandom).opc = s.opc := rfl
@[simp] theorem State.drawRandom_run : (s.drawRandom).run = s.run := rfl
@[simp] theorem State.drawRandom_loaded : (s.drawRandom).loaded = s.loaded := rfl
@[simp] theorem State.drawRandom_random : (s.drawRandom).random = s.random.next := rfl
@[simp] theorem State.drawRandom_keypad : (s.drawRandom).keypad = s.keypad := rfl
@[simp] theorem State.drawRandom_sched : (s.drawRandom).sched = s.sched := rfl

@[simp] theorem State.sampleKeys_v : (s.sampleKeys).v = s.v := rfl
@[simp] theorem State.sampleKeys_i : (s.sampleKeys).i = s.i := rfl
@[simp] theorem State.sampleKeys_pc : (s.sampleKeys).pc = s.pc := rfl
@[simp] theorem State.sampleKeys_sp : (s.sampleKeys).sp = s.sp := rfl
@[simp] theorem State.sampleKeys_stack : (s.sampleKeys).stack = s.stack := rfl
@[simp] theorem State.sampleKeys_dt : (s.sampleKeys).dt = s.dt := rfl
@[simp] theorem State.sampleKeys_st : (s.sampleKeys).st = s.st := rfl
@[simp] theorem State.sampleKeys_fb : (s.sampleKeys).fb = s.fb := rfl
@[simp] theorem State.sampleKeys_mem : (s.sampleKeys).mem = s.mem := rfl
@[simp] theorem State.sampleKeys_opc : (s.sampleKeys).opc = s.opc := rfl
@[simp] theorem State.sampleKeys_run : (s.sampleKeys).run = s.run := rfl
@[simp] theorem State.sampleKeys_loaded : (s.sampleKeys).loaded = s.loaded := rfl
@[simp] theorem State.sampleKeys_random : (s.sampleKeys).random = s.random := rfl
@[simp] theorem State.sampleKeys_keypad : (s.sampleKeys).keypad = s.keypad.next := rfl
@[simp] theorem State.sampleKeys_sched : (s.sampleKeys).sched = s.sched := rfl

@[simp] theorem State.dropOp_v : (s.dropOp).v = s.v := rfl
@[simp] theorem State.dropOp_i : (s.dropOp).i = s.i := rfl
@[simp] theorem State.dropOp_pc : (s.dropOp).pc = s.pc := rfl
@[simp] theorem State.dropOp_sp : (s.dropOp).sp = s.sp := rfl
@[simp] theorem State.dropOp_stack : (s.dropOp).stack = s.stack := rfl
@[simp] theorem State.dropOp_dt : (s.dropOp).dt = s.dt := rfl
@[simp] theorem State.dropOp_st : (s.dropOp).st = s.st := rfl
@[simp] theorem State.dropOp_fb : (s.dropOp).fb = s.fb := rfl
@[simp] theorem State.dropOp_mem : (s.dropOp).mem = s.mem := rfl
@[simp] theorem State.dropOp_opc : (s.dropOp).opc = s.opc := rfl
@[simp] theorem State.dropOp_run : (s.dropOp).run = s.run := rfl
@[simp] theorem State.dropOp_loaded : (s.dropOp).loaded = s.loaded := rfl
@[simp] theorem State.dropOp_random : (s.dropOp).random = s.random := rfl
@[simp] theorem State.dropOp_keypad : (s.dropOp).keypad = s.keypad := rfl
@[simp] theorem State.dropOp_sched : (s.dropOp).sched = s.sched.tail := rfl

@[simp] theorem State.loadRange_i (x : Reg) : (s.loadRange x).i = s.i := rfl
@[simp] theorem State.loadRange_pc (x : Reg) : (s.loadRange x).pc = s.pc := rfl
@[simp] theorem State.loadRange_sp (x : Reg) : (s.loadRange x).sp = s.sp := rfl
@[simp] theorem State.loadRange_stack (x : Reg) : (s.loadRange x).stack = s.stack := rfl
@[simp] theorem State.loadRange_dt (x : Reg) : (s.loadRange x).dt = s.dt := rfl
@[simp] theorem State.loadRange_st (x : Reg) : (s.loadRange x).st = s.st := rfl
@[simp] theorem State.loadRange_fb (x : Reg) : (s.loadRange x).fb = s.fb := rfl
@[simp] theorem State.loadRange_mem (x : Reg) : (s.loadRange x).mem = s.mem := rfl
@[simp] theorem State.loadRange_opc (x : Reg) : (s.loadRange x).opc = s.opc := rfl
@[simp] theorem State.loadRange_run (x : Reg) : (s.loadRange x).run = s.run := rfl
@[simp] theorem State.loadRange_loaded (x : Reg) : (s.loadRange x).loaded = s.loaded := rfl
@[simp] theorem State.loadRange_random (x : Reg) : (s.loadRange x).random = s.random := rfl
@[simp] theorem State.loadRange_keypad (x : Reg) : (s.loadRange x).keypad = s.keypad := rfl
@[simp] theorem State.loadRange_sched (x : Reg) : (s.loadRange x).sched = s.sched := rfl

/-! ### Registers -/

@[simp] theorem State.reg_setReg (x y : Reg) (b : Byte) :
    (s.setReg x b).reg y = if y = x then b else s.reg y := by
  simp only [State.reg, State.setReg, Vector.getElem_set, Fin.ext_iff, eq_comm]

@[simp] theorem State.reg_setFlag (c : Bool) (y : Reg) :
    (s.setFlag c).reg y = if y = VF then (if c then 1#8 else 0#8) else s.reg y := by
  simp only [State.setFlag, State.reg_setReg]

@[simp] theorem State.reg_loadRange (x y : Reg) :
    (s.loadRange x).reg y = if y.val ≤ x.val then Memory.read s.mem (ea s.i y.val) else s.reg y := by
  simp [State.loadRange, State.reg]

@[simp] theorem State.reg_setI (w : Word) (y : Reg) : (s.setI w).reg y = s.reg y := rfl
@[simp] theorem State.reg_setDt (b : Byte) (y : Reg) : (s.setDt b).reg y = s.reg y := rfl
@[simp] theorem State.reg_setSt (b : Byte) (y : Reg) : (s.setSt b).reg y = s.reg y := rfl
@[simp] theorem State.reg_setMem (m : Memory) (y : Reg) : (s.setMem m).reg y = s.reg y := rfl
@[simp] theorem State.reg_setFb (fb : Framebuffer) (y : Reg) : (s.setFb fb).reg y = s.reg y := rfl
@[simp] theorem State.reg_setRun (r : RunState) (y : Reg) : (s.setRun r).reg y = s.reg y := rfl
@[simp] theorem State.reg_setOpc (w : Word) (y : Reg) : (s.setOpc w).reg y = s.reg y := rfl
@[simp] theorem State.reg_jump (w : Word) (y : Reg) : (s.jump w).reg y = s.reg y := rfl
@[simp] theorem State.reg_advance (y : Reg) : (s.advance).reg y = s.reg y := rfl
@[simp] theorem State.reg_skipIf (c : Bool) (y : Reg) : (s.skipIf c).reg y = s.reg y := rfl
@[simp] theorem State.reg_drawRandom (y : Reg) : (s.drawRandom).reg y = s.reg y := rfl
@[simp] theorem State.reg_sampleKeys (y : Reg) : (s.sampleKeys).reg y = s.reg y := rfl
@[simp] theorem State.reg_dropOp (y : Reg) : (s.dropOp).reg y = s.reg y := rfl

/-! ### The key sample and the random byte depend on their ports alone -/

@[simp] theorem State.keySample_setReg (x : Reg) (b : Byte) : (s.setReg x b).keySample = s.keySample := rfl
@[simp] theorem State.randomByte_setReg (x : Reg) (b : Byte) : (s.setReg x b).randomByte = s.randomByte := rfl
@[simp] theorem State.keySample_setOpc (w : Word) : (s.setOpc w).keySample = s.keySample := rfl
@[simp] theorem State.randomByte_setOpc (w : Word) : (s.setOpc w).randomByte = s.randomByte := rfl
@[simp] theorem State.keySample_jump (w : Word) : (s.jump w).keySample = s.keySample := rfl
@[simp] theorem State.randomByte_jump (w : Word) : (s.jump w).randomByte = s.randomByte := rfl
@[simp] theorem State.keySample_dropOp : (s.dropOp).keySample = s.keySample := rfl
@[simp] theorem State.randomByte_dropOp : (s.dropOp).randomByte = s.randomByte := rfl

/-- The reset state of the core, field by field, is `State.reset` with the inputs kept. -/
@[simp] theorem State.resetCore_resetCore : s.resetCore.resetCore = s.resetCore := rfl

end Sys2Proof.Machine
end

