-- ==== Sys2Proof/Laws/Memory.lean ====
section
/-! SUPPORT. Memory: the canonical form is kept by every operation, a byte reads back as it was written, and a write
changes no other byte. -/

namespace Sys2Proof.Machine.Memory

@[simp] theorem read_nil (a : Nat) : read [] a = 0#8 := rfl

@[simp] theorem read_cons (a k : Nat) (b : Byte) (m : Memory) :
    read ((a, b) :: m) k = if a = k then b else read m k := rfl

theorem wfFrom_cons {lo a : Nat} {b : Byte} {m : Memory} :
    wfFrom lo ((a, b) :: m) = true ↔ lo ≤ a ∧ a < 4096 ∧ b ≠ 0#8 ∧ wfFrom (a + 1) m = true := by
  simp [wfFrom, Config.memSize, and_assoc]

/-- A lower bound of the addresses can be lowered. -/
theorem wfFrom_mono {lo hi : Nat} {m : Memory} (h : lo ≤ hi) (hm : wfFrom hi m = true) : wfFrom lo m = true := by
  cases m with
  | nil => rfl
  | cons p m =>
    obtain ⟨a, b⟩ := p
    rw [wfFrom_cons] at hm ⊢
    exact ⟨by omega, hm.2⟩

/-- An address below all listed ones reads as 0. -/
theorem read_below {lo k : Nat} {m : Memory} (hm : wfFrom lo m = true) (hk : k < lo) : read m k = 0#8 := by
  induction m generalizing lo with
  | nil => rfl
  | cons p m ih =>
    obtain ⟨a, b⟩ := p
    rw [wfFrom_cons] at hm
    rw [read_cons, if_neg (by omega)]
    exact ih hm.2.2.2 (by omega)

/-- A write changes no other byte. -/
theorem read_write_other (m : Memory) {a k : Nat} (b : Byte) (h : k ≠ a) : read (write m a b) k = read m k := by
  induction m with
  | nil => by_cases hb : b = 0#8 <;> simp [write, hb, Ne.symm h]
  | cons p m ih =>
    obtain ⟨c, d⟩ := p
    by_cases hlt : c < a
    · simp [write, hlt, ih]
    · by_cases hc : c = a <;> by_cases hb : b = 0#8 <;> simp [write, hlt, hc, hb, Ne.symm h]

theorem read_write_same_from {lo a : Nat} {m : Memory} (b : Byte) (hm : wfFrom lo m = true) :
    read (write m a b) a = b := by
  induction m generalizing lo with
  | nil => by_cases hb : b = 0#8 <;> simp [write, hb]
  | cons p m ih =>
    obtain ⟨c, d⟩ := p
    rw [wfFrom_cons] at hm
    by_cases hlt : c < a
    · rw [write, if_pos hlt, read_cons, if_neg (by omega)]
      exact ih hm.2.2.2
    · have hrest : read (if c = a then m else (c, d) :: m) a = 0#8 := by
        split
        · exact read_below hm.2.2.2 (by omega)
        · rw [read_cons, if_neg ‹_›]
          exact read_below hm.2.2.2 (by omega)
      by_cases hb : b = 0#8
      · simp only [write, hlt, if_false, hb, if_true, hrest]
      · simp [write, hlt, hb]

/-- A byte reads back as it was written. -/
theorem read_write_same {m : Memory} (a : Nat) (b : Byte) (hm : wf m = true) : read (write m a b) a = b :=
  read_write_same_from b hm

theorem write_wfFrom {lo a : Nat} {m : Memory} (b : Byte) (hm : wfFrom lo m = true) (hlo : lo ≤ a)
    (ha : a < 4096) : wfFrom lo (write m a b) = true := by
  induction m generalizing lo with
  | nil =>
    by_cases hb : b = 0#8
    · simp [write, hb, wfFrom]
    · simp only [write, hb, if_false]
      exact wfFrom_cons.2 ⟨hlo, ha, hb, rfl⟩
  | cons p m ih =>
    obtain ⟨c, d⟩ := p
    rw [wfFrom_cons] at hm
    by_cases hlt : c < a
    · rw [write, if_pos hlt]
      exact wfFrom_cons.2 ⟨hm.1, hm.2.1, hm.2.2.1, ih hm.2.2.2 (by omega)⟩
    · have hrest : wfFrom (a + 1) (if c = a then m else (c, d) :: m) = true := by
        split
        · rename_i hc
          exact hc ▸ hm.2.2.2
        · exact wfFrom_cons.2 ⟨by omega, hm.2⟩
      by_cases hb : b = 0#8
      · simp only [write, hlt, if_false, hb, if_true]
        exact wfFrom_mono (by omega) hrest
      · simp only [write, hlt, if_false, hb]
        exact wfFrom_cons.2 ⟨hlo, ha, hb, hrest⟩

/-- A write inside memory keeps the canonical form. -/
theorem write_wf {m : Memory} {a : Nat} (b : Byte) (hm : wf m = true) (ha : a < 4096) : wf (write m a b) = true :=
  write_wfFrom b hm (Nat.zero_le a) ha

theorem ea_lt (base : Word) (k : Nat) : ea base k < 4096 := Nat.mod_lt _ (by decide)

/-- Addresses of different bytes of one access differ. -/
theorem ea_inj {base : Word} {j k : Nat} (hj : j < 4096) (hk : k < 4096) (h : ea base j = ea base k) : j = k := by
  simp only [ea, Config.memSize] at h
  omega

/-- A sequence of writes keeps the canonical form. -/
theorem writeSeq_wf {m : Memory} (base : Word) (k : Nat) (bs : List Byte) (hm : wf m = true) :
    wf (writeSeq m base k bs) = true := by
  induction bs generalizing m k with
  | nil => exact hm
  | cons b bs ih => exact ih (k + 1) (write_wf b hm (ea_lt base k))

/-- A sequence of writes changes no byte but those at its addresses. -/
theorem read_writeSeq_other (m : Memory) (base : Word) (k : Nat) (bs : List Byte) {a : Nat}
    (h : ∀ j < bs.length, a ≠ ea base (k + j)) : read (writeSeq m base k bs) a = read m a := by
  induction bs generalizing m k with
  | nil => rfl
  | cons b bs ih =>
    rw [writeSeq, ih, read_write_other m b (by simpa using h 0 (by simp))]
    intro j hj
    have := h (j + 1) (by simpa using hj)
    rwa [show k + 1 + j = k + (j + 1) by omega]

/-- Byte `j` of a sequence of writes reads back at its address, when the sequence does not wrap onto itself. -/
theorem read_writeSeq_at {m : Memory} (base : Word) (k : Nat) (bs : List Byte) (hm : wf m = true)
    (hlen : k + bs.length ≤ 4096) (j : Nat) (hj : j < bs.length) :
    read (writeSeq m base k bs) (ea base (k + j)) = bs[j] := by
  induction bs generalizing m k j with
  | nil => simp at hj
  | cons b bs ih =>
    simp only [List.length_cons] at hlen hj
    cases j with
    | zero =>
      rw [writeSeq, read_writeSeq_other _ _ _ _ ?_]
      · exact read_write_same _ b hm
      · intro i hi h
        have := ea_inj (by omega) (by omega) h
        omega
    | succ j =>
      rw [writeSeq, show k + (j + 1) = k + 1 + j by omega]
      exact ih (k + 1) (write_wf b hm (ea_lt base k)) (by omega) j (by omega)

/-- Reset memory is in canonical form. -/
theorem reset_wf : wf State.reset.mem = true := rfl

end Sys2Proof.Machine.Memory
end

