-- ==== Sys2Proof/Laws/Ops.lean ====
section
/-! SUPPORT. One lemma per shared operation that says everything it can do: the fatal-error action, the stack
controller, the input ports, the key queries, operand forms, the ALU flags. -/

namespace Sys2Proof.Machine

/-! ### Fatal errors -/

/-- `raise Fatal(cause)` always answers a next state, and only `run` differs in it (R313). -/
theorem raiseFatal_eq_next {cause : Cause} {s t : State} :
    raiseFatal cause s = .next t ↔ t = s.setRun (.halted cause) := by
  simp [raiseFatal, eq_comm]

/-! ### The stack controller -/

/-- A push either finds the stack full, or writes the entry at the old `SP` and increments `SP` (R231). -/
theorem push_cases (s : State) (w : Word) :
    (s.sp.val = 16 ∧ s.push w = none) ∨
    (∃ (h : s.sp.val < 16), s.push w =
      some { s with stack := s.stack.set s.sp.val w, sp := ⟨s.sp.val + 1, by omega⟩ }) := by
  have := s.sp.isLt
  by_cases h : s.sp.val < 16
  · exact .inr ⟨h, by simp [State.push, h]⟩
  · exact .inl ⟨by omega, by simp [State.push, h]⟩

/-- A pop either finds the stack empty, or decrements `SP` and reads the entry there (R232). -/
theorem pop_cases (s : State) :
    (s.sp.val = 0 ∧ s.pop = none) ∨
    (∃ (h : 0 < s.sp.val), s.pop =
      some (s.stack[s.sp.val - 1], { s with sp := ⟨s.sp.val - 1, by omega⟩ })) := by
  by_cases h : 0 < s.sp.val
  · exact .inr ⟨h, by simp [State.pop, h]⟩
  · exact .inl ⟨by omega, by simp [State.pop, h]⟩

/-! ### Input ports -/

theorem Port.value_given {α : Type} (free : Nat → α) (a : α) (rest : List α) (n : Nat) :
    Port.value free ⟨a :: rest, n⟩ = a := rfl

theorem Port.value_free {α : Type} (free : Nat → α) (n : Nat) : Port.value free ⟨[], n⟩ = free n := rfl

@[simp] theorem Port.next_given {α : Type} (p : Port α) : p.next.given = p.given.tail := rfl

@[simp] theorem Port.next_taken {α : Type} (p : Port α) : p.next.taken = p.taken + 1 := rfl

/-! ### Operand forms -/

/-- A byte is a key code exactly when it is at most 15 (R290). -/
theorem keyCode_eq_some {b : Byte} {k : Key} : keyCode b = some k ↔ b.toNat = k.val := by
  unfold keyCode
  split
  · simp [Fin.ext_iff]
  · have := k.isLt
    simp
    omega

theorem keyCode_eq_none {b : Byte} : keyCode b = none ↔ 15 < b.toNat := by
  unfold keyCode
  split <;> simp <;> omega

@[simp] theorem addrOf_toNat (nnn : Imm12) : (addrOf nnn).toNat = nnn.toNat := by
  have := nnn.isLt
  simp only [addrOf, BitVec.toNat_setWidth]
  omega

@[simp] theorem zext16_toNat (b : Byte) : (zext16 b).toNat = b.toNat := by
  have := b.isLt
  simp only [zext16, BitVec.toNat_setWidth]
  omega

/-- The glyph address of every byte is below `2^16`, so it is the exact sum (R203). -/
theorem glyphAddr_toNat (b : Byte) : (glyphAddr b).toNat = 0x050 + 5 * b.toNat := by
  have := b.isLt
  simp only [glyphAddr, fontBase, BitVec.toNat_add, BitVec.toNat_mul, zext16_toNat, BitVec.toNat_ofNat]
  omega

@[simp] theorem regRange_length (s : State) (x : Reg) : (s.regRange x).length = x.val + 1 := by
  have := x.isLt
  simp [State.regRange]

theorem regRange_get (s : State) (x : Reg) (k : Nat) (h : k < (s.regRange x).length) :
    (s.regRange x)[k] = s.reg ⟨k, by have := x.isLt; simp at h; omega⟩ := by
  simp [State.regRange, State.reg]

/-! ### ALU results and flags -/

theorem addCarry_spec (a b : Byte) :
    (addCarry a b).1.toNat = (a.toNat + b.toNat) % 256 ∧ ((addCarry a b).2 = true ↔ 255 < a.toNat + b.toNat) := by
  simp [addCarry]

theorem subNotBorrow_spec (a b : Byte) :
    (subNotBorrow a b).1.toNat = (a.toNat + 256 - b.toNat) % 256 ∧
      ((subNotBorrow a b).2 = true ↔ b.toNat ≤ a.toNat) := by
  have := a.isLt
  have := b.isLt
  simp only [subNotBorrow, BitVec.toNat_sub, decide_eq_true_eq, and_true]
  omega

theorem shiftRight_spec (a : Byte) :
    (shiftRight a).1.toNat = a.toNat / 2 ∧ ((shiftRight a).2 = true ↔ a.toNat % 2 = 1) := by
  constructor
  · simp [shiftRight, Nat.shiftRight_eq_div_pow]
  · simp [shiftRight, BitVec.getLsbD, Nat.testBit_zero]

theorem shiftLeft_spec (a : Byte) :
    (shiftLeft a).1.toNat = a.toNat * 2 % 256 ∧ ((shiftLeft a).2 = true ↔ a.toNat / 128 = 1) := by
  have := a.isLt
  constructor
  · simp [shiftLeft, Nat.shiftLeft_eq]
  · simp only [shiftLeft, BitVec.getLsbD, Nat.testBit_eq_decide_div_mod_eq, decide_eq_true_eq]
    omega

/-- What a flag-writing ALU instruction leaves (R172): the flag in `VF`, and in `Vx`, when it is not `VF`, the result. -/
theorem reg_writeWithFlag (s : State) (x : Reg) (r : Byte × Bool) (y : Reg) :
    (s.writeWithFlag x r).reg y =
      if y = VF then (if r.2 then 1#8 else 0#8) else if y = x then r.1 else s.reg y := by
  simp [State.writeWithFlag]

@[simp] theorem writeWithFlag_pc (s : State) (x : Reg) (r : Byte × Bool) :
    (s.writeWithFlag x r).pc = s.pc + 2#16 := rfl

end Sys2Proof.Machine
end

