-- ==== Sys2Proof/Laws/Cycle.lean ====
section
/-! SUPPORT. What `cycle()` and a step can do, each said once: later proofs take these cases apart and do not unfold
the step function. -/

namespace Sys2Proof.Machine

@[simp] theorem mapNext_next {σ τ : Type} (f : σ → τ) (s : σ) : mapNext f (.next s) = .next (f s) := rfl

/-- A mapped outcome is next exactly when the outcome was. -/
theorem mapNext_eq_next {σ τ : Type} {f : σ → τ} {r : Host.Outcome σ Fault Refusal} {b : τ} :
    mapNext f r = .next b ↔ ∃ a, r = .next a ∧ f a = b := by
  cases r <;> simp [mapNext]

@[simp] theorem fetchWord_dropOp (s : State) : s.dropOp.fetchWord = s.fetchWord := rfl

@[simp] theorem fetchable_iff (pc : Word) : fetchable pc = true ↔ pc.toNat ≤ 0xFFE := by simp [fetchable]

/-- The status and state of an instruction, paired. -/
theorem mapNext_snd_withStatus (r : Result) : mapNext Prod.snd (withStatus r) = r := by
  cases r <;> rfl

/-- What `cycle()` does in each run state, with the outcome of the instruction where one executes (R140). -/
theorem cycle_cases (s : State) :
    (s.loaded = false ∧ cycle s = .refused .cycleBeforeLoad) ∨
    (s.loaded = true ∧ s.run ≠ .running ∧ cycle s = .next s) ∨
    (s.loaded = true ∧ s.run = .running ∧ 0xFFE < s.pc.toNat ∧
      cycle s = .next (s.setRun (.halted .pcOutOfRange))) ∨
    (s.loaded = true ∧ s.run = .running ∧ s.pc.toNat ≤ 0xFFE ∧
      ∃ i, decodeWord s.fetchWord = .ok i ∧ cycle s = exec i (s.setOpc s.fetchWord)) ∨
    (s.loaded = true ∧ s.run = .running ∧ s.pc.toNat ≤ 0xFFE ∧
      decodeWord s.fetchWord = .error (.unknownOpcode s.fetchWord) ∧
      cycle s = .next (s.setOpc s.fetchWord).advance) := by
  by_cases hl : s.loaded = true
  · refine .inr ?_
    cases hr : s.run with
    | running =>
      by_cases hp : s.pc.toNat ≤ 0xFFE
      · refine .inr (.inr ?_)
        cases hd : decodeWord s.fetchWord with
        | ok i =>
          exact .inl ⟨hl, rfl, hp, i, rfl, by
            simp [cycle, cycleWithStatus, fetchExecute, dispatchWord, hl, hr, hp, hd, mapNext_snd_withStatus]⟩
        | error e =>
          have he := decodeWord_error hd
          subst he
          exact .inr ⟨hl, rfl, hp, rfl, by
            simp [cycle, cycleWithStatus, fetchExecute, dispatchWord, hl, hr, hp, hd]⟩
      · exact .inr (.inl ⟨hl, rfl, by omega, by
          simp [cycle, cycleWithStatus, fetchExecute, hl, hr, hp, mapNext_snd_withStatus, raiseFatal]⟩)
    | awaitingKey t => exact .inl ⟨hl, by simp, by simp [cycle, cycleWithStatus, hl, hr]⟩
    | halted cause => exact .inl ⟨hl, by simp, by simp [cycle, cycleWithStatus, hl, hr]⟩
  · exact .inl ⟨by simpa using hl, by simp [cycle, cycleWithStatus, hl, mapNext]⟩

/-- A step performs the first operation of the schedule, or `cycle()`, on the state without it (R82, R83). -/
theorem step_cases (s : State) :
    (s.sched = [] ∧ step s = cycle s.dropOp) ∨
    (∃ op ops, s.sched = op :: ops ∧ step s = perform op s.dropOp) := by
  cases h : s.sched with
  | nil => exact .inl ⟨rfl, by simp [step, State.nextOp, h, perform]⟩
  | cons op ops => exact .inr ⟨op, ops, rfl, by simp [step, State.nextOp, h]⟩

/-- What a key poll can do (R292): nothing outside a wait; in a wait it takes a sample, and with a key down it writes the
code and resumes. -/
theorem keyPoll_cases (s : State) :
    ((∀ t, s.run ≠ .awaitingKey t) ∧ keyPoll s = s) ∨
    (∃ t, s.run = .awaitingKey t ∧ s.keySample.anyPressedCode = none ∧ keyPoll s = s.sampleKeys) ∨
    (∃ t k, s.run = .awaitingKey t ∧ s.keySample.anyPressedCode = some k ∧
      keyPoll s = (s.sampleKeys.setReg t (BitVec.ofNat 8 k.val)).setRun .running) := by
  cases hr : s.run with
  | running => exact .inl ⟨by simp, by simp [keyPoll, hr]⟩
  | halted cause => exact .inl ⟨by simp, by simp [keyPoll, hr]⟩
  | awaitingKey t =>
    cases hk : s.keySample.anyPressedCode with
    | none => exact .inr (.inl ⟨t, rfl, rfl, by simp [keyPoll, hr, hk]⟩)
    | some k => exact .inr (.inr ⟨t, k, rfl, rfl, by simp [keyPoll, hr, hk]⟩)

/-- What a load can do (R354 to R356). -/
theorem load_cases (font : Font) (image : List Byte) (s : State) :
    (s.loaded = true ∧ load font image s = .refused .loadTwice) ∨
    (s.loaded = false ∧ image.length ≤ 3584 ∧ load font image s = .next (s.loadImage font image)) ∨
    (s.loaded = false ∧ 3584 < image.length ∧ load font image s = .next s) := by
  by_cases hl : s.loaded = true
  · exact .inl ⟨hl, by simp [load, hl]⟩
  · by_cases hi : image.length ≤ 3584
    · exact .inr (.inl ⟨by simpa using hl, hi, by simp [load, hl, loadResult, maxImage, hi]⟩)
    · exact .inr (.inr ⟨by simpa using hl, by omega, by simp [load, hl, loadResult, maxImage, hi]⟩)

/-- One tick of a timer: one less, and never below 0 (R287). -/
theorem tickTimer_toNat (t : Byte) : (tickTimer t).toNat = t.toNat - 1 := by
  have := t.isLt
  unfold tickTimer
  split
  · simp_all
  · have : t.toNat ≠ 0 := fun h => ‹¬ t = 0#8› (BitVec.eq_of_toNat_eq h)
    simp only [BitVec.toNat_sub, BitVec.toNat_ofNat]
    omega

/-- A font has 80 bytes (R352). -/
theorem fontBytes_length (font : Font) : (fontBytes font).length = 80 := by
  have h : ∀ gs : List (Vector Byte 5), ((gs.map Vector.toList).flatten).length = gs.length * 5 := by
    intro gs
    induction gs with
    | nil => rfl
    | cons g gs ih =>
      rw [List.map_cons, List.flatten_cons, List.length_append, ih, List.length_cons, Vector.length_toList]
      omega
  rw [fontBytes, h, Vector.length_toList]

/-- A load keeps the canonical form of memory. -/
theorem loadImage_wf {s : State} (font : Font) (image : List Byte) (h : Memory.wf s.mem = true) :
    Memory.wf (s.loadImage font image).mem = true :=
  Memory.writeSeq_wf _ _ _ (Memory.writeSeq_wf _ _ _ h)

/-- Placing a fetch word keeps the canonical form of memory. -/
theorem withFetchWord_wf {s : State} (nbits w : Nat) (h : Memory.wf s.mem = true) :
    Memory.wf (s.withFetchWord nbits w).mem = true :=
  Memory.writeSeq_wf _ _ _ h

end Sys2Proof.Machine
end

