-- ==== Sys2Proof/Laws/Display.lean ====
section
/-! SUPPORT. The pixel engine: what a toggle does to each pixel, and that drawing rows only toggles pixels. -/

namespace Sys2Proof.Machine

@[simp] theorem Framebuffer.pixel_toggle (fb : Framebuffer) (r q : Fin 32) (c d : Fin 64) :
    Framebuffer.pixel (Framebuffer.toggle fb r c) q d =
      (Framebuffer.pixel fb q d ^^ decide (q = r ∧ d = c)) := by
  simp only [Framebuffer.pixel, Framebuffer.toggle, Vector.getElem_set]
  by_cases hr : r.val = q.val
  · have hq : q = r := Fin.ext hr.symm
    subst hq
    simp [Fin.ext_iff, eq_comm]
  · have hq : q ≠ r := fun h => hr (h ▸ rfl)
    simp [hr, hq]

/-- Two framebuffers that agree on every pixel are equal data. -/
theorem Framebuffer.ext_pixel {fb gb : Framebuffer}
    (h : ∀ r c, Framebuffer.pixel fb r c = Framebuffer.pixel gb r c) : fb = gb := by
  apply Vector.ext
  intro r hr
  apply BitVec.eq_of_getLsbD_eq
  intro c hc
  exact h ⟨r, hr⟩ ⟨c, hc⟩

/-- The blank framebuffer: every pixel is 0 (R261). -/
theorem Framebuffer.pixel_blank (r : Fin 32) (c : Fin 64) :
    Framebuffer.pixel (Vector.replicate 32 0#64) r c = false := by
  simp [Framebuffer.pixel]

/-! ### What drawing a sprite does -/

/-- Toggle a list of pixels in order. -/
def Draw.toggleAll (d : Draw) (ps : List (Fin 32 × Fin 64)) : Draw := ps.foldl (fun d p => d.toggle p.1 p.2) d

/-- The pixels that the 1 bits of one sprite row land on. -/
def rowPoints (cx cy : Byte) (i : Nat) (row : Byte) : List (Fin 32 × Fin 64) :=
  ((List.range 8).filter fun j => row.getLsbD (7 - j)).map fun j => (spriteRow cy i, spriteCol cx j)

/-- The pixels that the 1 bits of a sprite land on, from row `i` on. -/
def spritePoints (cx cy : Byte) : Nat → List Byte → List (Fin 32 × Fin 64)
  | _, [] => []
  | i, row :: rows => rowPoints cx cy i row ++ spritePoints cx cy (i + 1) rows

theorem drawRow_eq (cx cy : Byte) (i : Nat) (row : Byte) (d : Draw) :
    drawRow cx cy i row d = d.toggleAll (rowPoints cx cy i row) := by
  simp only [drawRow, Draw.toggleAll, rowPoints, List.foldl_map]
  induction List.range 8 generalizing d with
  | nil => rfl
  | cons j js ih => by_cases hj : row.getLsbD (7 - j) = true <;> simp [hj, ih]

/-- Drawing rows toggles the sprite's pixels, one after the other, and nothing else. -/
theorem drawRows_eq (cx cy : Byte) (i : Nat) (rows : List Byte) (d : Draw) :
    drawRows cx cy i rows d = d.toggleAll (spritePoints cx cy i rows) := by
  induction rows generalizing i d with
  | nil => rfl
  | cons row rows ih => rw [drawRows, ih, drawRow_eq, spritePoints]; exact (List.foldl_append ..).symm

theorem mem_rowPoints {cx cy : Byte} {i : Nat} {row : Byte} {r : Fin 32} {c : Fin 64} :
    (r, c) ∈ rowPoints cx cy i row ↔
      r = spriteRow cy i ∧ ∃ j < 8, row.getLsbD (7 - j) = true ∧ c = spriteCol cx j := by
  simp only [rowPoints, List.mem_map, List.mem_filter, List.mem_range, Prod.mk.injEq]
  constructor
  · rintro ⟨j, ⟨hj, hb⟩, rfl, rfl⟩
    exact ⟨rfl, j, hj, hb, rfl⟩
  · rintro ⟨rfl, j, hj, hb, rfl⟩
    exact ⟨j, ⟨hj, hb⟩, rfl, rfl⟩

/-- A pixel is toggled exactly when a 1 bit of a sprite byte lands on it (R262 to R264). -/
theorem mem_spritePoints {cx cy : Byte} {i : Nat} {rows : List Byte} {r : Fin 32} {c : Fin 64} :
    (r, c) ∈ spritePoints cx cy i rows ↔ ∃ k, ∃ (h : k < rows.length), r = spriteRow cy (i + k) ∧
      ∃ j < 8, rows[k].getLsbD (7 - j) = true ∧ c = spriteCol cx j := by
  induction rows generalizing i with
  | nil => simp [spritePoints]
  | cons row rows ih =>
    rw [spritePoints, List.mem_append, mem_rowPoints, ih]
    constructor
    · rintro (h | ⟨k, hk, h⟩)
      · exact ⟨0, by simp, h⟩
      · exact ⟨k + 1, by simpa using hk, by rwa [show i + (k + 1) = i + 1 + k by omega]⟩
    · rintro ⟨k, hk, h⟩
      cases k with
      | zero => exact .inl h
      | succ k => exact .inr ⟨k, by simpa using hk, by rwa [show i + 1 + k = i + (k + 1) by omega]⟩

/-- At most 32 rows and eight columns of a sprite land on different pixels, even where they wrap, so no pixel is toggled
twice. -/
theorem spritePoints_nodup (cx cy : Byte) (i : Nat) (rows : List Byte) (h : rows.length ≤ 32) :
    (spritePoints cx cy i rows).Nodup := by
  induction rows generalizing i with
  | nil => exact List.nodup_nil
  | cons row rows ih =>
    simp only [List.length_cons] at h
    rw [spritePoints, List.nodup_append]
    refine ⟨?_, ih (i + 1) (by omega), ?_⟩
    · refine List.Nodup.map_on ?_ (List.nodup_range.filter _)
      intro j hj k hk e
      simp only [List.mem_filter, List.mem_range, spriteCol, Fin.ofNat, Prod.mk.injEq, Fin.mk.injEq, true_and] at hj hk e
      omega
    · rintro ⟨r, c⟩ hp ⟨q, d⟩ hq e
      rw [mem_rowPoints] at hp
      obtain ⟨k, hk, hq, -⟩ := mem_spritePoints.1 hq
      simp only [Prod.mk.injEq] at e
      have := (hp.1.symm.trans e.1).trans hq
      simp only [spriteRow, Fin.ofNat, Fin.mk.injEq] at this
      omega

/-- Toggling different pixels flips each once, and reports a collision exactly when one of them was 1. -/
theorem toggleAll_spec (d : Draw) (ps : List (Fin 32 × Fin 64)) (h : ps.Nodup) :
    (∀ r c, Framebuffer.pixel (d.toggleAll ps).fb r c = (Framebuffer.pixel d.fb r c ^^ decide ((r, c) ∈ ps))) ∧
    ((d.toggleAll ps).coll = true ↔ d.coll = true ∨ ∃ p ∈ ps, Framebuffer.pixel d.fb p.1 p.2 = true) := by
  induction ps generalizing d with
  | nil => simp [Draw.toggleAll]
  | cons p ps ih =>
    obtain ⟨hp, hps⟩ := List.nodup_cons.1 h
    obtain ⟨h1, h2⟩ := ih (d.toggle p.1 p.2) hps
    have e : d.toggleAll (p :: ps) = (d.toggle p.1 p.2).toggleAll ps := rfl
    rw [e]
    constructor
    · intro r c
      rw [h1]
      by_cases hm : (r, c) ∈ ps
      · have hne : (r, c) ≠ p := fun he => hp (he ▸ hm)
        have : ¬(r = p.1 ∧ c = p.2) := fun he => hne (Prod.ext he.1 he.2)
        simp [Draw.toggle, hm, this]
      · by_cases he : (r, c) = p
        · subst he; simp [Draw.toggle, hm]
        · have : ¬(r = p.1 ∧ c = p.2) := fun h => he (Prod.ext h.1 h.2)
          simp [Draw.toggle, hm, he, this]
    · rw [h2]
      have hq : ∀ q ∈ ps, Framebuffer.pixel (d.toggle p.1 p.2).fb q.1 q.2 = Framebuffer.pixel d.fb q.1 q.2 := by
        intro q hq
        have : ¬(q.1 = p.1 ∧ q.2 = p.2) := fun he => hp ((Prod.ext he.1 he.2 : q = p) ▸ hq)
        simp [Draw.toggle, this]
      simp only [Draw.toggle, Bool.or_eq_true, List.mem_cons, exists_eq_or_imp, or_assoc]
      refine or_congr_right (or_congr_right ⟨?_, ?_⟩)
      · rintro ⟨q, hm, hb⟩; exact ⟨q, hm, by rw [← hq q hm]; exact hb⟩
      · rintro ⟨q, hm, hb⟩; exact ⟨q, hm, by rw [← hb]; exact hq q hm⟩

theorem readSeq_length (m : Memory) (base : Word) (n : Nat) : (Memory.readSeq m base n).length = n := by
  simp [Memory.readSeq]

theorem readSeq_get (m : Memory) (base : Word) (n k : Nat) (h : k < (Memory.readSeq m base n).length) :
    (Memory.readSeq m base n)[k] = Memory.read m (ea base k) := by
  simp [Memory.readSeq]

end Sys2Proof.Machine
end

