-- ==== Sys2Proof/Laws/Frames.lean ====
section
/-! SUPPORT. Frames: how to show that every part of the state but some is unchanged, and how to use it; and what the next
key sample is. -/

namespace Sys2Proof.Machine

/-- A frame from the fields: each field is one of the parts left out or is equal. -/
theorem keepsAllBut_of_fields {ps : List Part} {s t : State} (hv : .regs ∈ ps ∨ ∀ r, t.reg r = s.reg r)
    (hi : .index ∈ ps ∨ t.i = s.i) (hpc : .pc ∈ ps ∨ t.pc = s.pc)
    (hst : .stack ∈ ps ∨ (t.sp = s.sp ∧ t.stack = s.stack)) (hdt : .delay ∈ ps ∨ t.dt = s.dt)
    (hsd : .sound ∈ ps ∨ t.st = s.st) (hfb : .pixels ∈ ps ∨ t.fb = s.fb) (hm : .memory ∈ ps ∨ t.mem = s.mem)
    (ho : .opcode ∈ ps ∨ t.opc = s.opc) (hr : .run ∈ ps ∨ t.run = s.run) (hl : .loaded ∈ ps ∨ t.loaded = s.loaded)
    (hrd : .random ∈ ps ∨ t.random = s.random) (hk : .keypad ∈ ps ∨ t.keypad = s.keypad)
    (hs : .schedule ∈ ps ∨ t.sched = s.sched) : KeepsAllBut ps s t := by
  intro p hp
  cases p <;> simp_all [Part.same]

/-- A part is the same in a state as in itself. -/
theorem Part.same_refl (p : Part) (s : State) : p.same s s := by
  cases p <;> simp [Part.same]

/-- Frames compose, with the parts left out joined. -/
theorem KeepsAllBut.trans {ps qs : List Part} {s t u : State} (h : KeepsAllBut ps s t) (g : KeepsAllBut qs t u) :
    KeepsAllBut (ps ++ qs) s u := by
  intro p hp
  have hp' : p ∉ ps ∧ p ∉ qs := by simpa using hp
  have h1 := h p hp'.1
  have h2 := g p hp'.2
  cases p <;> simp_all [Part.same]

/-! ### The next key sample -/

/-- The next sample and the samples behind it are what the port gives and what taking one leaves. -/
theorem State.nextSample_iff {s : State} {q : KeySample} {rest : List KeySample} :
    s.NextSample q rest ↔ q = s.keySample ∧ rest = s.sampleKeys.keypad.given := by
  cases h : s.keypad.given with
  | nil => simp [State.NextSample, State.keySample, Port.value, Port.next, h, and_comm]
  | cons p ps => simp [State.NextSample, State.keySample, Port.value, Port.next, h, eq_comm]

/-- Every state has a next sample. -/
theorem State.nextSample (s : State) : s.NextSample s.keySample s.sampleKeys.keypad.given :=
  State.nextSample_iff.2 ⟨rfl, rfl⟩

end Sys2Proof.Machine
end

