-- ==== Sys2Proof/Laws/PerInstr.lean ====
section
/-! SUPPORT. Statements made of every instruction, one lemma per constructor.

`EncodesCanonically`: the word of the instruction is the canonical spelling of a row of the opcode table, its
don't-care bits 0 (`30_encoding.md` R107, R110). -/

namespace Sys2Proof.Laws.EncodesCanonically

/-- The instruction is well formed: `encode` spells it canonically. -/
def Statement (i : Instr) : Prop := i.wellFormed = true

/-- A word spelled by a row of the table is canonical. -/
theorem canonical_of_row {w : Word} (r : OpcodeRow) (hr : r ∈ opcodeRows) (h : r.spells w = true) :
    WellFormed.canonical w = true := List.any_eq_true.2 ⟨r, hr, h⟩

/-- A word of format `nnn` is spelled by the row of its family. -/
theorem spells_ofNnn {op : Nat} (pattern : String) (h : op < 16) (nnn : Imm12) :
    (opRow pattern op).spells (ofNnn op nnn) = true := by
  have := nnn.isLt
  simp [OpcodeRow.spells, OpcodeRow.selects, opRow, field, ofNnn]
  omega

/-- A word of format `xkk` is spelled by the row of its family. -/
theorem spells_ofXkk {op : Nat} (pattern : String) (h : op < 16) (x : Reg) (kk : Byte) :
    (opRow pattern op).spells (ofXkk op x kk) = true := by
  have := x.isLt
  have := kk.isLt
  simp [OpcodeRow.spells, OpcodeRow.selects, opRow, field, ofXkk]
  omega

/-- A word of format `xkk` is spelled by the row of its family and selector byte. -/
theorem spells_ofXkk_kk {op kk : Nat} (pattern : String) (h : op < 16) (hkk : kk < 256) (x : Reg) :
    (kkRow pattern op kk).spells (ofXkk op x (BitVec.ofNat 8 kk)) = true := by
  have := x.isLt
  simp [OpcodeRow.spells, OpcodeRow.selects, kkRow, field, ofXkk]
  omega

/-- Four nibbles are spelled by the row of their family and selector nibble. -/
theorem spells_ofNibbles {op n : Nat} (pattern : String) (h : op < 16) (hn : n < 16) (x y : Reg) :
    (nRow pattern op n).spells (ofNibbles op x.val y.val n) = true := by
  have := x.isLt
  have := y.isLt
  simp [OpcodeRow.spells, OpcodeRow.selects, nRow, field, ofNibbles]
  omega

theorem cls : Statement (.cls) := by
  unfold Statement; decide

theorem ret : Statement (.ret) := by
  unfold Statement; decide

theorem jp (nnn : Imm12) : Statement (.jp nnn) :=
  canonical_of_row _ (by decide) (spells_ofNnn "1nnn" (by decide) nnn)

theorem call (nnn : Imm12) : Statement (.call nnn) :=
  canonical_of_row _ (by decide) (spells_ofNnn "2nnn" (by decide) nnn)

theorem seImm (x : Reg) (kk : Byte) : Statement (.seImm x kk) :=
  canonical_of_row _ (by decide) (spells_ofXkk "3xkk" (by decide) x kk)

theorem sneImm (x : Reg) (kk : Byte) : Statement (.sneImm x kk) :=
  canonical_of_row _ (by decide) (spells_ofXkk "4xkk" (by decide) x kk)

theorem seReg (x y : Reg) : Statement (.seReg x y) := by
  refine canonical_of_row ({ opRow "5xy0" 0x5 with dontCare := [⟨3, 0, 0⟩] }) (by decide) ?_
  have := x.isLt
  have := y.isLt
  simp [OpcodeRow.spells, OpcodeRow.selects, opRow, field, encode, ofNibbles]
  omega

theorem ldImm (x : Reg) (kk : Byte) : Statement (.ldImm x kk) :=
  canonical_of_row _ (by decide) (spells_ofXkk "6xkk" (by decide) x kk)

theorem addImm (x : Reg) (kk : Byte) : Statement (.addImm x kk) :=
  canonical_of_row _ (by decide) (spells_ofXkk "7xkk" (by decide) x kk)

theorem ldReg (x y : Reg) : Statement (.ldReg x y) :=
  canonical_of_row _ (by decide) (spells_ofNibbles "8xy0" (by decide) (by decide) x y)

theorem orReg (x y : Reg) : Statement (.orReg x y) :=
  canonical_of_row _ (by decide) (spells_ofNibbles "8xy1" (by decide) (by decide) x y)

theorem andReg (x y : Reg) : Statement (.andReg x y) :=
  canonical_of_row _ (by decide) (spells_ofNibbles "8xy2" (by decide) (by decide) x y)

theorem xorReg (x y : Reg) : Statement (.xorReg x y) :=
  canonical_of_row _ (by decide) (spells_ofNibbles "8xy3" (by decide) (by decide) x y)

theorem addReg (x y : Reg) : Statement (.addReg x y) :=
  canonical_of_row _ (by decide) (spells_ofNibbles "8xy4" (by decide) (by decide) x y)

theorem subReg (x y : Reg) : Statement (.subReg x y) :=
  canonical_of_row _ (by decide) (spells_ofNibbles "8xy5" (by decide) (by decide) x y)

theorem shr (x : Reg) : Statement (.shr x) := by
  refine canonical_of_row ({ nRow "8xy6" 0x8 0x6 with dontCare := [⟨7, 4, 0⟩] }) (by decide) ?_
  have := x.isLt
  simp [OpcodeRow.spells, OpcodeRow.selects, nRow, field, encode, ofNibbles]
  omega

theorem subn (x y : Reg) : Statement (.subn x y) :=
  canonical_of_row _ (by decide) (spells_ofNibbles "8xy7" (by decide) (by decide) x y)

theorem shl (x : Reg) : Statement (.shl x) := by
  refine canonical_of_row ({ nRow "8xyE" 0x8 0xE with dontCare := [⟨7, 4, 0⟩] }) (by decide) ?_
  have := x.isLt
  simp [OpcodeRow.spells, OpcodeRow.selects, nRow, field, encode, ofNibbles]
  omega

theorem sneReg (x y : Reg) : Statement (.sneReg x y) := by
  refine canonical_of_row ({ opRow "9xy0" 0x9 with dontCare := [⟨3, 0, 0⟩] }) (by decide) ?_
  have := x.isLt
  have := y.isLt
  simp [OpcodeRow.spells, OpcodeRow.selects, opRow, field, encode, ofNibbles]
  omega

theorem ldI (nnn : Imm12) : Statement (.ldI nnn) :=
  canonical_of_row _ (by decide) (spells_ofNnn "Annn" (by decide) nnn)

theorem jpV0 (nnn : Imm12) : Statement (.jpV0 nnn) :=
  canonical_of_row _ (by decide) (spells_ofNnn "Bnnn" (by decide) nnn)

theorem rnd (x : Reg) (kk : Byte) : Statement (.rnd x kk) :=
  canonical_of_row _ (by decide) (spells_ofXkk "Cxkk" (by decide) x kk)

theorem drw (x y : Reg) (n : Height) : Statement (.drw x y n) := by
  refine canonical_of_row (opRow "Dxyn" 0xD) (by decide) ?_
  have := x.isLt
  have := y.isLt
  have := n.isLt
  simp [OpcodeRow.spells, OpcodeRow.selects, opRow, field, encode, ofNibbles]
  omega

theorem skp (x : Reg) : Statement (.skp x) :=
  canonical_of_row _ (by decide) (spells_ofXkk_kk "Ex9E" (by decide) (by decide) x)

theorem sknp (x : Reg) : Statement (.sknp x) :=
  canonical_of_row _ (by decide) (spells_ofXkk_kk "ExA1" (by decide) (by decide) x)

theorem ldVxDt (x : Reg) : Statement (.ldVxDt x) :=
  canonical_of_row _ (by decide) (spells_ofXkk_kk "Fx07" (by decide) (by decide) x)

theorem ldVxKey (x : Reg) : Statement (.ldVxKey x) :=
  canonical_of_row _ (by decide) (spells_ofXkk_kk "Fx0A" (by decide) (by decide) x)

theorem ldDt (x : Reg) : Statement (.ldDt x) :=
  canonical_of_row _ (by decide) (spells_ofXkk_kk "Fx15" (by decide) (by decide) x)

theorem ldSt (x : Reg) : Statement (.ldSt x) :=
  canonical_of_row _ (by decide) (spells_ofXkk_kk "Fx18" (by decide) (by decide) x)

theorem addI (x : Reg) : Statement (.addI x) :=
  canonical_of_row _ (by decide) (spells_ofXkk_kk "Fx1E" (by decide) (by decide) x)

theorem ldFont (x : Reg) : Statement (.ldFont x) :=
  canonical_of_row _ (by decide) (spells_ofXkk_kk "Fx29" (by decide) (by decide) x)

theorem ldBcd (x : Reg) : Statement (.ldBcd x) :=
  canonical_of_row _ (by decide) (spells_ofXkk_kk "Fx33" (by decide) (by decide) x)

theorem storeRegs (x : Reg) : Statement (.storeRegs x) :=
  canonical_of_row _ (by decide) (spells_ofXkk_kk "Fx55" (by decide) (by decide) x)

theorem loadRegs (x : Reg) : Statement (.loadRegs x) :=
  canonical_of_row _ (by decide) (spells_ofXkk_kk "Fx65" (by decide) (by decide) x)

end Sys2Proof.Laws.EncodesCanonically
end

