-- ==== Sys2Proof/Tests/Slice0.lean ====
section
/-! SUPPORT. The model's own tests. Every expected value is a vector or worked example of `95_test_vectors.md` (its
id stands in the comment) or is read from the rule named; the words are written out from `30_encoding.md` R101 and
R104. Behind them, for every obligation that has hypotheses, a witness that meets them together. -/

namespace Sys2Proof.Tests

open Sys2Proof Sys2Proof.Machine

/-! ### Well-formed words: one ill-formed word for each check -/

theorem test_known_refuses_0nnn : WellFormed.known 0x0123#16 = false := by decide
theorem test_known_refuses_8xy8 : WellFormed.known 0x8008#16 = false := by decide
theorem test_known_refuses_families_E_F :
    WellFormed.known 0xE000#16 = false ∧ WellFormed.known 0xF0FF#16 = false := by decide
theorem test_canonical_refuses_05E0 :
    WellFormed.known 0x05E0#16 = true ∧ WellFormed.canonical 0x05E0#16 = false := by decide
theorem test_canonical_refuses_low_nibble :
    WellFormed.canonical 0x5121#16 = false ∧ WellFormed.canonical 0x912F#16 = false := by decide
theorem test_canonical_refuses_shift_y :
    WellFormed.canonical 0x8126#16 = false ∧ WellFormed.canonical 0x81FE#16 = false := by decide
theorem test_canonical_accepts :
    WellFormed.canonical 0x00EE#16 = true ∧ WellFormed.canonical 0x8106#16 = true ∧
      WellFormed.canonical 0xD015#16 = true := by decide
theorem test_wellFormed_instruction : (Instr.seReg 1 2).wellFormed = true := by decide

/-! ### Decoding words written out from R101 and R104 -/

theorem test_decode_family_0 : decode [0x00, 0xE0] = .ok .cls ∧ decode [0x05, 0xE0] = .ok .cls ∧
    decode [0x00, 0xEE] = .ok .ret ∧ decode [0x0F, 0xEE] = .ok .ret := by decide
theorem test_decode_jumps : decode [0x1A, 0xBC] = .ok (.jp 0xABC) ∧ decode [0x2A, 0xBC] = .ok (.call 0xABC) ∧
    decode [0xB3, 0x01] = .ok (.jpV0 0x301) := by decide
theorem test_decode_skips : decode [0x3A, 0x05] = .ok (.seImm 0xA 0x05) ∧
    decode [0x4A, 0x05] = .ok (.sneImm 0xA 0x05) ∧ decode [0x51, 0x2F] = .ok (.seReg 1 2) ∧
    decode [0x91, 0x20] = .ok (.sneReg 1 2) := by decide
theorem test_decode_immediates : decode [0x67, 0x42] = .ok (.ldImm 7 0x42) ∧
    decode [0x7A, 0xFF] = .ok (.addImm 0xA 0xFF) ∧ decode [0xA1, 0x23] = .ok (.ldI 0x123) ∧
    decode [0xC3, 0x0F] = .ok (.rnd 3 0x0F) := by decide
theorem test_decode_family_8_moves : decode [0x81, 0x20] = .ok (.ldReg 1 2) ∧
    decode [0x81, 0x21] = .ok (.orReg 1 2) ∧ decode [0x81, 0x22] = .ok (.andReg 1 2) ∧
    decode [0x81, 0x23] = .ok (.xorReg 1 2) := by decide
theorem test_decode_family_8_flags : decode [0x83, 0x44] = .ok (.addReg 3 4) ∧
    decode [0x81, 0x25] = .ok (.subReg 1 2) ∧ decode [0x81, 0x26] = .ok (.shr 1) ∧
    decode [0x81, 0x27] = .ok (.subn 1 2) ∧ decode [0x81, 0x2E] = .ok (.shl 1) := by decide
theorem test_decode_draw : decode [0xD1, 0x25] = .ok (.drw 1 2 5) ∧ decode [0xD0, 0x10] = .ok (.drw 0 1 0) := by
  decide
theorem test_decode_family_E : decode [0xE1, 0x9E] = .ok (.skp 1) ∧ decode [0xE1, 0xA1] = .ok (.sknp 1) := by decide
theorem test_decode_family_F_timers : decode [0xF3, 0x07] = .ok (.ldVxDt 3) ∧
    decode [0xF5, 0x0A] = .ok (.ldVxKey 5) ∧ decode [0xF2, 0x15] = .ok (.ldDt 2) ∧
    decode [0xF2, 0x18] = .ok (.ldSt 2) := by decide
theorem test_decode_family_F_memory : decode [0xF2, 0x1E] = .ok (.addI 2) ∧ decode [0xF0, 0x29] = .ok (.ldFont 0) ∧
    decode [0xF5, 0x33] = .ok (.ldBcd 5) ∧ decode [0xF3, 0x55] = .ok (.storeRegs 3) ∧
    decode [0xF3, 0x65] = .ok (.loadRegs 3) := by decide
/-- R106: one word of each part of the unknown-opcode space, and bytes too short for a word (R100). -/
theorem test_decode_unknown : decode [0x01, 0x23] = .error (.unknownOpcode 0x0123) ∧
    decode [0x80, 0x08] = .error (.unknownOpcode 0x8008) ∧ decode [0xE0, 0x00] = .error (.unknownOpcode 0xE000) ∧
    decode [0xF0, 0xFF] = .error (.unknownOpcode 0xF0FF) ∧ decode [0x12] = .error .truncated := by decide
theorem test_decodeTableWord : decodeTableWord 16 0x8344 = some (.addReg 3 4) ∧ decodeTableWord 16 0x0123 = none := by
  decide

/-! ### Helpers: a state about to run one word at `0x200`, and the state one step later -/

/-- The reset state with the word at `PC`, loaded. -/
def at200 (w : Nat) : State := State.reset.withFetchWord 16 w

/-- The state after one step, or the state itself where the step stops. -/
def stepped (s : State) : State :=
  match step s with
  | .next t => t
  | _ => s

/-- The numeric status that `cycle()` returns, or 9 where it has no step. -/
def statusCode (s : State) : Nat :=
  match cycleWithStatus s with
  | .next (q, _) => q.code
  | _ => 9

/-- Put a byte in memory. -/
def poke (s : State) (a : Nat) (b : Byte) : State := s.setMem (Memory.write s.mem a b)

/-- The next key sample: one key down. -/
def keyDown (k : Key) : KeySample := ⟨(Vector.replicate 16 false).set k.val true, 0⟩

/-- The next key sample: no key down. -/
def keysUp : KeySample := ⟨Vector.replicate 16 false, 0⟩

/-- A state whose provider answers with this sample next. -/
def asked (s : State) (q : KeySample) : State := { s with keypad := ⟨[q], 0⟩ }

/-- A state whose driver performs this operation next. -/
def driven (s : State) (op : DriverOp) : State := { s with sched := [op] }

/-! ### ALU -/

/-- W1. -/
theorem test_ldImm : (stepped (at200 0x6742)).reg 7 = 0x42 ∧ (stepped (at200 0x6742)).pc = 0x202 := by decide
/-- D-A1. -/
theorem test_addImm_wraps : (stepped (((at200 0x7AFF).setReg 0xA 0x01).setReg VF 0x55)).reg 0xA = 0x00 ∧
    (stepped (((at200 0x7AFF).setReg 0xA 0x01).setReg VF 0x55)).reg VF = 0x55 := by decide
/-- D-A3. -/
theorem test_ldReg : (stepped (((at200 0x8120).setReg 1 0x12).setReg 2 0x34)).reg 1 = 0x34 := by decide
/-- D-A4. -/
theorem test_or_keeps_VF :
    (stepped ((((at200 0x8121).setReg 1 0xF0).setReg 2 0x0F).setReg VF 0x07)).reg 1 = 0xFF ∧
    (stepped ((((at200 0x8121).setReg 1 0xF0).setReg 2 0x0F).setReg VF 0x07)).reg VF = 0x07 := by decide
/-- D-A5. -/
theorem test_and : (stepped (((at200 0x8122).setReg 1 0xF0).setReg 2 0x3C)).reg 1 = 0x30 := by decide
/-- D-A6. -/
theorem test_xor : (stepped (((at200 0x8123).setReg 1 0xFF).setReg 2 0x0F)).reg 1 = 0xF0 := by decide
/-- W3. -/
theorem test_add_carry : (stepped (((at200 0x8344).setReg 3 0xFF).setReg 4 0x01)).reg 3 = 0x00 ∧
    (stepped (((at200 0x8344).setReg 3 0xFF).setReg 4 0x01)).reg VF = 0x01 := by decide
/-- D-A19, D-A23: `x = F` keeps the flag, and `y = F` reads the old `VF`. -/
theorem test_add_VF : (stepped (((at200 0x8F24).setReg VF 0xFF).setReg 2 0x02)).reg VF = 1 ∧
    (stepped (((at200 0x81F4).setReg 1 0xFF).setReg VF 0x01)).reg 1 = 0x00 := by decide
/-- D-A10, D-A11. -/
theorem test_sub : (stepped (((at200 0x8125).setReg 1 0x01).setReg 2 0x10)).reg 1 = 0xF1 ∧
    (stepped (((at200 0x8125).setReg 1 0x01).setReg 2 0x10)).reg VF = 0 ∧
    (stepped (((at200 0x8125).setReg 1 0x42).setReg 2 0x42)).reg VF = 1 := by decide
/-- D-A12. -/
theorem test_shr : (stepped (((at200 0x8126).setReg 1 0x03).setReg 2 0xAA)).reg 1 = 0x01 ∧
    (stepped (((at200 0x8126).setReg 1 0x03).setReg 2 0xAA)).reg VF = 1 := by decide
/-- D-A14, D-A15. -/
theorem test_subn : (stepped (((at200 0x8127).setReg 1 0x01).setReg 2 0x10)).reg 1 = 0x0F ∧
    (stepped (((at200 0x8127).setReg 1 0x10).setReg 2 0x01)).reg VF = 0 := by decide
/-- D-A17, D-A22. -/
theorem test_shl : (stepped ((at200 0x812E).setReg 1 0x81)).reg 1 = 0x02 ∧
    (stepped ((at200 0x8F2E).setReg VF 0x81)).reg VF = 1 := by decide
/-- D-A25. -/
theorem test_rnd : (stepped { at200 0xC30F with random := ⟨[0xA7], 0⟩ }).reg 3 = 0x07 := by decide

/-! ### Index register and memory -/

/-- D-M1. -/
theorem test_ldI : (stepped (at200 0xAFFF)).i = 0x0FFF := by decide
/-- D-M2, D-M3. -/
theorem test_addI : (stepped (((at200 0xF21E).setI 0x0FFF).setReg 2 1)).i = 0x1000 ∧
    (stepped (((at200 0xF21E).setI 0xFFFF).setReg 2 1)).i = 0x0000 := by decide
/-- D-M5, D-M7. -/
theorem test_ldFont : (stepped ((at200 0xF029).setReg 0 0x0F)).i = 0x009B ∧
    (stepped ((at200 0xF029).setReg 0 0xFF)).i = 0x054B := by decide
/-- W4. -/
theorem test_bcd :
    (List.range 4).map (fun k => Memory.read (stepped (poke (((at200 0xF533).setReg 5 234).setI 0x300) 0x303 0x77)).mem
      (0x300 + k)) = [2, 3, 4, 0x77] := by decide
/-- D-M13: the digits wrap from `0xFFF` to `0x000`. -/
theorem test_bcd_wraps : [0xFFE, 0xFFF, 0x000].map (fun a => Memory.read
    (stepped (((at200 0xF033).setReg 0 255).setI 0xFFE)).mem a) = [2, 5, 5] := by decide
/-- D-M14. -/
theorem test_store_one : Memory.read (stepped ((((at200 0xF055).setReg 0 0xAB).setReg 1 0xCD).setI 0x400)).mem 0x400
      = 0xAB ∧
    Memory.read (stepped ((((at200 0xF055).setReg 0 0xAB).setReg 1 0xCD).setI 0x400)).mem 0x401 = 0 := by decide
/-- D-M16. -/
theorem test_store_wraps :
    Memory.read (stepped ((((at200 0xF155).setReg 0 1).setReg 1 2).setI 0xFFF)).mem 0xFFF = 1 ∧
    Memory.read (stepped ((((at200 0xF155).setReg 0 1).setReg 1 2).setI 0xFFF)).mem 0x000 = 2 := by decide
/-- D-M17. -/
theorem test_load_range : (List.finRange 4).map (fun r => (stepped (poke (poke (poke (((at200 0xF265).setReg 3 0x99).setI
      0x400) 0x400 1) 0x401 2) 0x402 3)).reg ⟨r.val, by omega⟩) = [1, 2, 3, 0x99] := by decide
/-- D-M18. -/
theorem test_load_VF : (stepped (poke ((at200 0xFF65).setI 0x400) 0x40F 0x5A)).reg VF = 0x5A := by decide

/-! ### Control flow -/

/-- D-C1. -/
theorem test_jp : (stepped (at200 0x1234)).pc = 0x234 := by decide
/-- D-C3. -/
theorem test_call : (stepped { at200 0x2ABC with sp := 15 }).stack[15] = 0x202 ∧
    (stepped { at200 0x2ABC with sp := 15 }).sp = 16 ∧ (stepped { at200 0x2ABC with sp := 15 }).pc = 0xABC := by decide
/-- D-C4. -/
theorem test_call_overflow : (stepped { at200 0x2ABC with sp := 16 }).run = .halted .stackOverflow ∧
    (stepped { at200 0x2ABC with sp := 16 }).pc = 0x200 ∧ (stepped { at200 0x2ABC with sp := 16 }).opc = 0x2ABC := by
  decide
/-- W7 and D-C6: a return goes to the entry below `SP`. -/
theorem test_ret : (stepped { at200 0x00EE with sp := 1, stack := (Vector.replicate 16 0).set 0 0x202 }).pc = 0x202 ∧
    (stepped { at200 0x00EE with sp := 1, stack := (Vector.replicate 16 0).set 0 0x202 }).sp = 0 := by decide
/-- D-C5. -/
theorem test_ret_underflow : (stepped (at200 0x00EE)).run = .halted .stackUnderflow ∧
    (stepped (at200 0x00EE)).pc = 0x200 := by decide
/-- D-C7, D-C8. -/
theorem test_seImm : (stepped ((at200 0x3A05).setReg 0xA 5)).pc = 0x204 ∧
    (stepped ((at200 0x3A05).setReg 0xA 6)).pc = 0x202 := by decide
/-- D-C9, D-C10. -/
theorem test_sneImm : (stepped ((at200 0x4A05).setReg 0xA 5)).pc = 0x202 ∧
    (stepped ((at200 0x4A05).setReg 0xA 6)).pc = 0x204 := by decide
/-- D-C11, D-F7. -/
theorem test_seReg : (stepped (((at200 0x5120).setReg 1 0x33).setReg 2 0x34)).pc = 0x202 ∧
    (stepped (((at200 0x5121).setReg 1 7).setReg 2 7)).pc = 0x204 := by decide
/-- D-C13 and the example of R240. -/
theorem test_sneReg : (stepped (((at200 0x9120).setReg 1 0x33).setReg 2 0x33)).pc = 0x202 ∧
    (stepped (((at200 0x9120).setReg 1 0x33).setReg 2 0x34)).pc = 0x204 := by decide
/-- D-C15, D-C17. -/
theorem test_jpV0 : (stepped ((at200 0xB300).setReg 0 4)).pc = 0x304 ∧
    (stepped ((at200 0xBFFF).setReg 0 0xFF)).pc = 0x10FE := by decide

/-! ### Display -/

/-- The framebuffer with one pixel set. -/
def onePixel (r : Fin 32) (c : Fin 64) : Framebuffer := Framebuffer.toggle State.reset.fb r c

/-- D-D10. -/
theorem test_cls : (stepped ((at200 0x00E0).setFb (onePixel 3 5))).fb = State.reset.fb := by decide
/-- W6. -/
theorem test_drw_column_wrap :
    (stepped (poke (((at200 0xD011).setReg 0 63).setI 0x300) 0x300 0xC0)).fb =
      Framebuffer.toggle (onePixel 0 63) 0 0 ∧
    (stepped (poke (((at200 0xD011).setReg 0 63).setI 0x300) 0x300 0xC0)).reg VF = 0 := by decide
/-- D-D3. -/
theorem test_drw_collision : (stepped (poke (((at200 0xD011).setI 0x300).setFb (onePixel 0 7)) 0x300 0x01)).reg VF = 1 ∧
    (stepped (poke (((at200 0xD011).setI 0x300).setFb (onePixel 0 7)) 0x300 0x01)).fb = State.reset.fb := by decide

/-! ### Timers and keys -/

/-- D-T8, D-T9. -/
theorem test_skp : (stepped (asked ((at200 0xE19E).setReg 1 5) (keyDown 5))).pc = 0x204 ∧
    (stepped (asked ((at200 0xE19E).setReg 1 5) (keyDown 4))).pc = 0x202 := by decide
/-- D-T12. -/
theorem test_skp_out_of_range : (stepped ((at200 0xE19E).setReg 1 0x10)).run = .halted .keyIndexOutOfRange ∧
    (stepped ((at200 0xE19E).setReg 1 0x10)).pc = 0x200 := by decide
/-- D-T10, D-T11. -/
theorem test_sknp : (stepped (asked ((at200 0xE1A1).setReg 1 5) keysUp)).pc = 0x204 ∧
    (stepped (asked ((at200 0xE1A1).setReg 1 5) (keyDown 5))).pc = 0x202 := by decide
/-- D-T4. -/
theorem test_ldVxDt : (stepped ((at200 0xF307).setDt 0x2A)).reg 3 = 0x2A := by decide
/-- D-T13. -/
theorem test_ldVxKey : (stepped (at200 0xF50A)).run = .awaitingKey 5 ∧ (stepped (at200 0xF50A)).pc = 0x202 := by decide
/-- D-T5. -/
theorem test_ldDt : (stepped ((at200 0xF215).setReg 2 60)).dt = 60 := by decide
/-- D-T6, D-T7. -/
theorem test_ldSt : (stepped ((at200 0xF218).setReg 2 3)).soundActive = true ∧
    (stepped ((at200 0xF218).setSt 9)).soundActive = false := by decide
/-- D-T1, D-T2. -/
theorem test_tick : (stepped (driven ((at200 0).setDt 2) .tickTimers)).dt = 1 ∧
    (stepped (driven ((at200 0).setSt 1) .tickTimers)).st = 0 ∧
    (stepped (driven ((at200 0).setSt 1) .tickTimers)).dt = 0 := by decide
/-- D-T15, D-T14. -/
theorem test_keyPoll :
    (stepped (driven (asked ((at200 0).setRun (.awaitingKey 5)) (keyDown 0xC)) .keyPoll)).reg 5 = 0x0C ∧
    (stepped (driven (asked ((at200 0).setRun (.awaitingKey 5)) (keyDown 0xC)) .keyPoll)).run = .running ∧
    (stepped (driven (asked ((at200 0).setRun (.awaitingKey 5)) keysUp) .keyPoll)).run = .awaitingKey 5 := by decide

/-! ### The cycle, the loader and reset -/

/-- D-F2. -/
theorem test_unknown : (stepped (at200 0)).pc = 0x202 ∧
    statusCode (at200 0) = 1 := by decide
/-- D-F8: a fetch at `0xFFE` is legal. -/
theorem test_fetch_top : (stepped (poke (poke ({ at200 0 with pc := 0xFFE }) 0xFFE 0x60) 0xFFF 0x01)).pc = 0x1000 := by
  decide
/-- D-F9. -/
theorem test_fetch_out_of_range : (stepped { at200 0 with pc := 0xFFF }).run = .halted .pcOutOfRange := by decide
/-- D-F10: an odd `PC`. -/
theorem test_fetch_odd : (stepped (poke (poke ({ at200 0 with pc := 0x201 }) 0x201 0x6A) 0x202 0x55)).reg 0xA = 0x55 := by
  decide
/-- D-F11, D-F12. -/
theorem test_status_when_stopped :
    statusCode ((at200 0).setRun (.halted .stackOverflow)) = 7 ∧
    statusCode ((at200 0).setRun (.awaitingKey 3)) = 2 := by decide
/-- D-F13. -/
theorem test_cycle_before_load :
    step State.reset = .refused .cycleBeforeLoad := rfl
/-- R355 and R353: glyph A and a two-byte image. -/
theorem test_load : [0x082, 0x083, 0x084, 0x200, 0x201, 0x202].map (fun a => Memory.read
      (stepped (driven State.reset (.load defaultFont [0x12, 0x34]))).mem a) = [0xF0, 0x90, 0xF0, 0x12, 0x34, 0] ∧
    (stepped (driven State.reset (.load defaultFont [0x12, 0x34]))).loaded = true := by decide
/-- D-L5. -/
theorem test_reset : stepped (driven (((at200 0x6742).setReg 3 9).setRun (.halted .stackOverflow)) .reset)
    = State.reset := by decide
/-- R330: the dump shows the cause of a halt. -/
theorem test_dump : (stepped (at200 0x00EE)).dump.run = .halted .stackUnderflow ∧
    (stepped (at200 0x00EE)).dump.opc = 0x00EE := by decide

/-! ### Witnesses: states and operands that meet the hypotheses of each obligation together -/

/-- A loaded, running core with nothing in memory: its next cycle fetches `0x0000` at `0x200`. -/
def base : State := { State.reset with loaded := true }

/-- A witness for "the step answers a next state": the step of `s` is next, and `p` holds of the state it gives. -/
def StepsTo (s : State) (p : State → Prop) : Prop := ∃ t, step s = .next t ∧ p t

/-- A witness for "the instruction answers a next state", with `p` of that state. -/
def RunsTo (i : Instr) (s : State) (p : State → Prop) : Prop := ∃ t, exec i s = .next t ∧ p t

/-- The boundary words of every range of R106: each is unknown, and its neighbour in a row's range decodes. -/
theorem witness_UnknownOpcodeSpaceIsExact :
    [0x0000#16, 0x00DF#16, 0x00E1#16, 0x00ED#16, 0x00EF#16, 0x0FFF#16, 0x8008#16, 0x8FFD#16, 0x800F#16, 0xE09D#16,
      0xEFA2#16, 0xF006#16, 0xFF66#16].all (fun w => !WellFormed.known w) = true ∧
    [0x0FE0#16, 0x00EE#16, 0x1000#16, 0x8007#16, 0x8FFE#16, 0x9000#16, 0xEF9E#16, 0xE0A1#16, 0xF007#16,
      0xFF65#16].all WellFormed.known = true := by decide

theorem witness_CanonicalWordsReencodeToThemselves : WellFormed.canonical 0x8106#16 = true := by decide

theorem witness_EachWordMatchesOneRowOrIsUnknown :
    (∃ r ∈ opcodeRows, r.selects 0x8344#16 = true) ∧ ∀ r ∈ opcodeRows, r.selects 0x0123#16 = false := by decide

/-- At the lowest and the highest legal fetch address. -/
theorem witness_Fetches : (at200 0x6742).Fetches ∧ ({ at200 0x6742 with pc := 0xFFE } : State).Fetches :=
  ⟨⟨rfl, rfl, .inl rfl, by decide⟩, ⟨rfl, rfl, .inl rfl, by decide⟩⟩

/-- A word that runs on, and one that raises a fatal error. -/
theorem witness_StepRunsTheDecodedInstruction :
    ((at200 0x6742).Fetches ∧ decode [0x67, 0x42] = .ok (.ldImm 7 0x42) ∧
      Memory.read (at200 0x6742).mem 0x200 = 0x67 ∧ Memory.read (at200 0x6742).mem 0x201 = 0x42 ∧
      RunsTo (.ldImm 7 0x42) (at200 0x6742) fun t => ¬ t.isHalted) ∧
    ((at200 0x00EE).Fetches ∧ decode [0x00, 0xEE] = .ok .ret ∧
      RunsTo .ret (at200 0x00EE) fun t => t.run = .halted .stackUnderflow) :=
  ⟨⟨witness_Fetches.1, by decide, by decide, by decide, _, rfl, fun ⟨_, h⟩ => nomatch h⟩,
    ⟨rfl, rfl, .inl rfl, by decide⟩, by decide, _, rfl, rfl⟩

theorem witness_UnknownOpcodeIsReportedNoOp :
    base.Fetches ∧ Memory.read base.mem 0x200 = 0 ∧ Memory.read base.mem 0x201 = 0 ∧
      ∀ i, decode [0, 0] ≠ .ok i :=
  ⟨⟨rfl, rfl, .inl rfl, by decide⟩, rfl, rfl, fun _ h => nomatch h⟩

theorem witness_FetchAboveTheTopOfMemoryHalts :
    let s : State := { base with pc := 0xFFF, sched := [.cycle] }
    s.loaded = true ∧ s.run = .running ∧ s.cyclesNext ∧ 0xFFE < s.pc.toNat :=
  ⟨rfl, rfl, .inr ⟨[], rfl⟩, by decide⟩

theorem witness_SuspendedCycleChangesNothing :
    let s := base.setRun (.awaitingKey 15)
    s.loaded = true ∧ s.run = .awaitingKey 15 ∧ s.cyclesNext := ⟨rfl, rfl, .inl rfl⟩

/-- Each side of R356 and R357, and a step that is not refused. -/
theorem witness_StepIsRefusedOnlyOutOfOrder :
    step State.reset = .refused .cycleBeforeLoad ∧
    step (driven base (.load defaultFont [])) = .refused .loadTwice ∧ StepsTo base fun _ => True :=
  ⟨rfl, rfl, _, rfl, trivial⟩

theorem witness_FatalErrorsArePrecise :
    RunsTo (.call 0x300) { base with sp := 16 } (fun t => t.run = .halted .stackOverflow) ∧
    RunsTo .ret base (fun t => t.run = .halted .stackUnderflow) ∧
    RunsTo (.skp 3) (base.setReg 3 16) (fun t => t.run = .halted .keyIndexOutOfRange) ∧
    RunsTo (.sknp 3) (base.setReg 3 255) (fun t => t.run = .halted .keyIndexOutOfRange) :=
  ⟨⟨_, rfl, rfl⟩, ⟨_, rfl, rfl⟩, ⟨_, rfl, rfl⟩, ⟨_, rfl, rfl⟩⟩

theorem witness_ProgramCounterAfterEachInstruction :
    base.run = .running ∧ RunsTo .cls base (fun t => ¬ t.isHalted) ∧ RunsTo .ret base State.isHalted :=
  ⟨rfl, ⟨_, rfl, fun ⟨_, h⟩ => nomatch h⟩, ⟨_, rfl, _, rfl⟩⟩

theorem witness_NoInstructionReadsTheOpcodeRegister : RunsTo (.jp 0x234) base fun _ => True := ⟨_, rfl, trivial⟩

/-- Each of the three operations that change a pixel. -/
theorem witness_OnlyClearAndDrawChangePixels :
    StepsTo ((at200 0x00E0).setFb (onePixel 0 0)) (fun t => ¬ Part.pixels.same ((at200 0x00E0).setFb (onePixel 0 0)) t) ∧
    StepsTo (poke ((at200 0xD011).setI 0x300) 0x300 0x80)
      (fun t => ¬ Part.pixels.same (poke ((at200 0xD011).setI 0x300) 0x300 0x80) t) ∧
    StepsTo (driven (base.setFb (onePixel 0 0)) .reset)
      (fun t => ¬ Part.pixels.same (driven (base.setFb (onePixel 0 0)) .reset) t) :=
  ⟨⟨_, rfl, fun h => absurd (h 0 0) (by decide)⟩, ⟨_, rfl, fun h => absurd (h 0 0) (by decide)⟩,
    ⟨_, rfl, fun h => absurd (h 0 0) (by decide)⟩⟩

theorem witness_OnlyTwoInstructionsStoreToMemory :
    RunsTo (.ldBcd 0) ((base.setReg 0 255).setI 0xFFE) (fun t => Memory.read t.mem 0x000 ≠ 0) ∧
    RunsTo (.storeRegs 0) ((base.setReg 0 1).setI 0x400) (fun t => Memory.read t.mem 0x400 ≠ 0) :=
  ⟨⟨_, rfl, by decide⟩, ⟨_, rfl, by decide⟩⟩

/-- A call into the last entry and a return from the first change `SP`; the call changes its entry. -/
theorem witness_OnlyCallAndReturnTouchTheStack :
    RunsTo (.call 0x300) { base with sp := 15 } (fun t => t.sp ≠ 15 ∧ t.stack[15] ≠ base.stack[15]) ∧
    RunsTo .ret { base with sp := 1 } (fun t => t.sp ≠ 1) :=
  ⟨⟨_, rfl, by decide⟩, ⟨_, rfl, by decide⟩⟩

theorem witness_OnlyTicksAndTimerInstructionsWriteTimers :
    StepsTo ((at200 0xF215).setReg 2 60) (fun t => t.dt ≠ 0) ∧ StepsTo ((at200 0xF218).setReg 2 3) (fun t => t.st ≠ 0) ∧
    StepsTo (driven (base.setDt 1) .tickTimers) (fun t => t.dt ≠ 1) ∧
    StepsTo (driven (base.setSt 9) .reset) (fun t => t.st ≠ 9) :=
  ⟨⟨_, rfl, by decide⟩, ⟨_, rfl, by decide⟩, ⟨_, rfl, by decide⟩, ⟨_, rfl, by decide⟩⟩

/-- Each clause: a plain destination, a flag instruction that writes both registers, a draw, a range load. -/
theorem witness_RegistersWrittenByEachInstruction :
    RunsTo (.ldImm 7 1) base (fun t => t.reg 7 ≠ 0) ∧
    RunsTo (.subReg 1 2) (base.setReg 2 1) (fun t => t.reg 1 ≠ 0) ∧
    RunsTo (.subReg 1 2) base (fun t => t.reg VF ≠ 0) ∧
    RunsTo (.drw 0 1 1) (base.setReg VF 1) (fun t => t.reg VF ≠ 1) ∧
    RunsTo (.loadRegs 15) (base.setReg 15 1) (fun t => t.reg 15 ≠ 1) :=
  ⟨⟨_, rfl, by decide⟩, ⟨_, rfl, by decide⟩, ⟨_, rfl, by decide⟩, ⟨_, rfl, by decide⟩, ⟨_, rfl, by decide⟩⟩

/-- A tick and a cycle of a halted core. -/
theorem witness_OnlyResetLeavesTheHalt :
    let s := (base.setRun (.halted .stackOverflow)).setDt 5
    s.loaded = true ∧ s.run = .halted .stackOverflow ∧
    StepsTo s (fun _ => s.sched.head? ≠ some .reset) ∧
    StepsTo (driven s .tickTimers) (fun t => (driven s .tickTimers).sched.head? ≠ some .reset ∧ t.dt = 4) :=
  ⟨rfl, rfl, ⟨_, rfl, by decide⟩, ⟨_, rfl, by decide⟩⟩

/-- Each of the three ways a suspended core can step. -/
theorem witness_OnlyKeyPollOrResetEndsTheWait :
    let s := base.setRun (.awaitingKey 5)
    s.loaded = true ∧ s.run = .awaitingKey 5 ∧ StepsTo s (fun t => t.run = .awaitingKey 5) ∧
    StepsTo (driven s .reset) (fun t => t.run = .running) ∧
    StepsTo (driven (asked s (keyDown 15)) .keyPoll) (fun t => t.run = .running ∧ t.reg 5 = 15) :=
  ⟨rfl, rfl, ⟨_, rfl, rfl⟩, ⟨_, rfl, rfl⟩, ⟨_, rfl, rfl, by decide⟩⟩

/-- The invariant has states in every run state, and each steps. -/
theorem witness_EveryStepKeepsTheInvariant :
    (at200 0x2300).Inv ∧ StepsTo (at200 0x2300) (fun t => t.pc = 0x300) ∧
    (((at200 0xF50A).setOpc 0xF50A).setRun (.awaitingKey 5)).Inv ∧
    (((at200 0x00EE).setOpc 0x00EE).setRun (.halted .stackUnderflow)).Inv := by
  refine ⟨?_, ⟨_, rfl, by decide⟩, ?_, ?_⟩
  · constructor
    · decide
    all_goals exact nofun
  · constructor
    · decide
    case waiting => rintro t ⟨⟩; decide
    all_goals exact nofun
  · constructor
    · decide
    case underflow => exact fun _ => by decide
    all_goals exact nofun

theorem witness_LoadedCoreNeverStops :
    let s : State := { base with sched := [.tickTimers, .cycle, .keyPoll] }
    s.loaded = true ∧ ∀ op ∈ s.sched, op = .cycle ∨ op = .tickTimers ∨ op = .keyPoll := ⟨rfl, by decide⟩

/-- The clauses on `x`, and the sums 255 and 256 where the carry clauses meet. -/
theorem witness_AddSetsCarry :
    let s := (base.setReg 1 0xFF).setReg 2 1
    (1 : Reg) ≠ VF ∧ 255 < (s.reg 1).toNat + (s.reg 2).toNat ∧ (s.reg 1).toNat + (s.reg 3).toNat ≤ 255 ∧
      (2 : Reg) ≠ 1 ∧ (2 : Reg) ≠ VF := by decide

/-- Equal operands, and operands one apart. -/
theorem witness_SubtractSetsNotBorrow :
    let s := (base.setReg 1 1).setReg 2 1
    (1 : Reg) ≠ VF ∧ (s.reg 2).toNat ≤ (s.reg 1).toNat ∧ (s.reg 0).toNat < (s.reg 1).toNat := by decide

theorem witness_ShiftsSetTheBitShiftedOut : (14 : Reg) ≠ VF ∧ (3 : Reg) ≠ 14 ∧ (3 : Reg) ≠ VF := by decide

/-- A given byte, and none. -/
theorem witness_RandomByteIsMasked :
    ({ base with random := ⟨[0xA7], 3⟩ } : State).random.given = [0xA7] ∧ base.random.given = [] := ⟨rfl, rfl⟩

/-- The digits of 255 at `0xFFE`, which wrap; an address that is none of theirs. -/
theorem witness_BcdStoresThreeDigits :
    let s := (base.setReg 0 255).setI 0xFFE
    Memory.wf s.mem = true ∧ 1 ≠ ea s.i 0 ∧ 1 ≠ ea s.i 1 ∧ 1 ≠ ea s.i 2 := by decide

/-- The first and the last register of a range that wraps, and an address just behind it. -/
theorem witness_StoreRegistersWritesTheRange :
    let s := base.setI 0xFFF
    Memory.wf s.mem = true ∧ (0 : Reg) ≤ 1 ∧ (1 : Reg) ≤ 1 ∧ ∀ k : Reg, k ≤ 1 → 1 ≠ ea s.i k.val := by decide

theorem witness_LoadRegistersReadsTheRange : (14 : Reg) ≤ 14 ∧ (14 : Reg) < 15 := by decide

theorem witness_StoreThenLoadRestoresRegisters :
    let s := ((base.setReg 0 0x11).setReg 1 0x22).setI 0x400
    Memory.wf s.mem = true ∧ RunsTo (.storeRegs 1) s fun t =>
      RunsTo (.loadRegs 1) { t with v := Vector.replicate 16 0 } fun u => u.reg 1 = 0x22 :=
  ⟨rfl, _, rfl, _, rfl, by decide⟩

/-- Canonical memories that list bytes, at both ends. -/
theorem witness_MemoryBehavesAsPlainStorage :
    Memory.wf [(0x000, 1), (0xFFF, 2)] = true ∧ Memory.wf (Memory.write [(0x000, 1)] 0xFFF 2) = true ∧
    Memory.write [(0x000, 1), (0xFFF, 2)] 0xFFF 0 = [(0x000, 1)] := by decide

/-- Just before the end of memory: the next fetch is at `0xFFE`. -/
theorem witness_FetchSeesStoredBytes :
    let s : State := { (base.setReg 0 0x12).setI 0xFFE with pc := 0xFFC }
    Memory.wf s.mem = true ∧ RunsTo (.storeRegs 1) s (fun t => t.fetchWord = 0x1200) ∧ 1 ≤ (1 : Reg).val ∧
      s.i = s.pc + 2#16 ∧ (s.pc + 2#16).toNat ≤ 0xFFE :=
  ⟨rfl, ⟨_, rfl, by decide⟩, by decide, by decide, by decide⟩

/-- `SP` 15 and 16, where the two clauses meet. -/
theorem witness_CallPushesTheSuccessor :
    ({ base with sp := 15 } : State).sp.val = (15 : Fin 16).val ∧ ({ base with sp := 16 } : State).sp.val = 16 :=
  ⟨rfl, rfl⟩

/-- `SP` 1, 16 and 0. -/
theorem witness_ReturnPopsTheStack :
    ({ base with sp := 1 } : State).sp.val = (0 : Fin 16).val + 1 ∧
    ({ base with sp := 16 } : State).sp.val = (15 : Fin 16).val + 1 ∧ base.sp.val = 0 := ⟨rfl, rfl, rfl⟩

theorem witness_ReturnComesBackAfterCall :
    let s : State := { base with sp := 15 }
    s.sp.val < 16 ∧ RunsTo (.call 0x300) s fun t => t.pc = 0x300 := ⟨by decide, _, rfl, by decide⟩

theorem witness_SkipsOnImmediate : base.reg 3 = 0x00 ∧ base.reg 3 ≠ 0x01 := by decide

theorem witness_SkipsOnRegisters :
    (base.setReg 3 1).reg 4 = (base.setReg 3 1).reg 5 ∧ (base.setReg 3 1).reg 3 ≠ (base.setReg 3 1).reg 4 := by decide

/-- A pixel that the sprite covers where it wraps in both directions, and one that it does not cover. -/
theorem witness_DrawTogglesTheSpriteAndReportsCollision :
    let s := poke (poke (((base.setReg 0 63).setReg 1 31).setI 0xFFF) 0xFFF 0x80) 0x000 0x40
    SpriteCovers s 0 1 2 31 63 ∧ SpriteCovers s 0 1 2 0 0 ∧ ¬ SpriteCovers s 0 1 0 0 0 ∧
      SpriteCovers (s.setFb (onePixel 0 0)) 0 1 2 0 0 ∧ Framebuffer.pixel (s.setFb (onePixel 0 0)).fb 0 0 = true ∧
      ∀ r c, Framebuffer.pixel s.fb r c = false := by
  refine ⟨⟨0, by decide, 0, by decide, by decide, by decide, by decide⟩,
    ⟨1, by decide, 1, by decide, by decide, by decide, by decide⟩, fun ⟨_, h, _⟩ => absurd h (by simp),
    ⟨1, by decide, 1, by decide, by decide, by decide, by decide⟩, by decide, ?_⟩
  intro r c
  simp [poke, base, State.reset, Framebuffer.pixel, State.setMem, State.setI, State.setReg]

theorem witness_DrawingTwiceRestoresTheFramebuffer :
    let s := poke (base.setI 0x300) 0x300 0xC0
    (0 : Reg) ≠ VF ∧ (1 : Reg) ≠ VF ∧ RunsTo (.drw 0 1 1) s fun t =>
      RunsTo (.drw 0 1 1) t fun u => u.reg VF = 1 :=
  ⟨by decide, by decide, _, rfl, _, rfl, by decide⟩

/-- Codes 15 and 16, where the clauses meet, both answers, and a sample given and a free one. -/
theorem witness_KeySkipsSampleTheKeypad :
    ((base.setReg 3 15).reg 3).toNat = (15 : Key).val ∧ 15 < ((base.setReg 3 16).reg 3).toNat ∧
    (asked base (keyDown 15)).NextSample (keyDown 15) [] ∧ (keyDown 15).isPressed 15 = true ∧
    ({ base with keypad := ⟨[keysUp, keyDown 15], 2⟩ } : State).NextSample keysUp [keyDown 15] ∧
    keysUp.isPressed 15 = false ∧
    base.NextSample ⟨Config.freeKeysDown 0, Config.freeKeyChoice 0⟩ [] :=
  ⟨by decide, by decide, .inl rfl, by decide, .inl rfl, by decide, .inr ⟨rfl, rfl, rfl⟩⟩

theorem witness_KeyQueriesAgree :
    keysUp.anyPressedCode = none ∧ (keyDown 7).anyPressedCode = some 7 ∧ (keyDown 7).isPressed 7 = true := by decide

/-- A key down and a sample behind it, no key down, and the run states in which a poll does nothing. -/
theorem witness_KeyPollCompletesTheWait :
    let s : State := { base.setRun (.awaitingKey 15) with keypad := ⟨[keyDown 0, keysUp], 2⟩ }
    s.run = .awaitingKey 15 ∧ s.NextSample (keyDown 0) [keysUp] ∧ (keyDown 0).anyPressedCode = some 0 ∧
    (asked s keysUp).run = .awaitingKey 15 ∧ (asked s keysUp).NextSample keysUp [] ∧ keysUp.anyPressedCode = none ∧
    base.run = .running ∧ (base.setRun (.halted .pcOutOfRange)).isHalted :=
  ⟨rfl, .inl rfl, by decide, rfl, .inl rfl, by decide, rfl, _, rfl⟩

/-- The lengths 0 and 3584, the first and last byte of an image, and addresses just outside font and image. -/
theorem witness_LoadPlacesFontAndImage :
    Memory.wf State.reset.mem = true ∧ State.reset.loaded = false ∧ ([] : List Byte).length ≤ 3584 ∧
    (List.replicate 3584 (0x12 : Byte)).length ≤ 3584 ∧ (0x04F < 0x050 ∨ 0x0A0 ≤ 0x04F) ∧
    (0x201 < 0x200 ∨ 0x200 + ([0x12] : List Byte).length ≤ 0x201) ∧ State.reset.HasResetValues := by
  refine ⟨rfl, rfl, by decide, Nat.le_of_eq List.length_replicate, by decide, by decide, ?_⟩
  constructor <;> try rfl
  · decide
  · decide
  · intro r c
    simp [State.reset, Framebuffer.pixel]
  · exact fun _ => rfl

/-- One byte too long, and a core that is loaded. -/
theorem witness_LoadRejectsTooLargeAndSecondImages :
    State.reset.loaded = false ∧ 3584 < (List.replicate 3585 (0x12 : Byte)).length ∧ base.loaded = true :=
  ⟨rfl, Nat.lt_of_lt_of_eq (Nat.lt_succ_self 3584) List.length_replicate.symm, rfl⟩

end Sys2Proof.Tests
end

section
/-! PROOFS. The ALU instructions without a flag that load or add (`41_alu.md` R173 to R175): `6xkk`, `7xkk` and
`8xy0`. -/

namespace Sys2Proof

/-! ### How their words decode -/

theorem decodeWord_ofXkk_ldImm (x : Reg) (kk : Byte) : decodeWord (ofXkk 0x6 x kk) = .ok (.ldImm x kk) := by
  have hop : opField (ofXkk 0x6 x kk) = 0x6 := opField_ofXkk (by decide) x kk
  simp only [decodeWord, hop, xField_ofXkk, kkField_ofXkk]

theorem decodeWord_ofXkk_addImm (x : Reg) (kk : Byte) : decodeWord (ofXkk 0x7 x kk) = .ok (.addImm x kk) := by
  have hop : opField (ofXkk 0x7 x kk) = 0x7 := opField_ofXkk (by decide) x kk
  simp only [decodeWord, hop, xField_ofXkk, kkField_ofXkk]

theorem decodeWord_ofNibbles_ldReg (x y : Reg) :
    decodeWord (ofNibbles 0x8 x.val y.val 0x0) = .ok (.ldReg x y) := by
  have hop : opField (ofNibbles 0x8 x.val y.val 0x0) = 0x8 :=
    opField_ofNibbles (by decide) x.isLt y.isLt (by decide)
  have hn : field (ofNibbles 0x8 x.val y.val 0x0) 3 0 = 0x0 := nibble_ofNibbles 0x8 x.val y.val (by decide)
  have hx : xField (ofNibbles 0x8 x.val y.val 0x0) = x := xField_ofNibbles 0x8 x y.isLt (by decide)
  have hy : yField (ofNibbles 0x8 x.val y.val 0x0) = y := yField_ofNibbles 0x8 x.val y (by decide)
  simp only [decodeWord, hop, hn, hx, hy]

end Sys2Proof

namespace Sys2Proof.Machine

/-! ### What they answer -/

theorem exec_ldImm (x : Reg) (kk : Byte) (s : State) : exec (.ldImm x kk) s = .next (s.setReg x kk).advance := rfl

theorem exec_addImm (x : Reg) (kk : Byte) (s : State) :
    exec (.addImm x kk) s = .next (s.setReg x (s.reg x + kk)).advance := rfl

theorem exec_ldReg (x y : Reg) (s : State) : exec (.ldReg x y) s = .next (s.setReg x (s.reg y)).advance := rfl

/-! ### The one update they share: write `Vx`, then `advance()` -/

theorem reg_setReg_advance (s : State) (x : Reg) (b : Byte) : (s.setReg x b).advance.reg x = b := by
  simp only [State.reg_advance, State.reg_setReg, if_true]

theorem keepsRegsBut_setReg_advance (s : State) (x : Reg) (b : Byte) :
    KeepsRegsBut x s (s.setReg x b).advance := by
  intro r hr
  simp only [State.reg_advance, State.reg_setReg, if_neg hr]

theorem keepsAllBut_setReg_advance (s : State) (x : Reg) (b : Byte) :
    KeepsAllBut [.regs, .pc] s (s.setReg x b).advance := by
  apply keepsAllBut_of_fields <;> simp

/-- The whole effect: `Vx` holds the byte, `PC` is 2 on, and nothing else changes. -/
theorem setReg_advance_effect (s : State) (x : Reg) (b : Byte) :
    (s.setReg x b).advance.reg x = b ∧ KeepsRegsBut x s (s.setReg x b).advance ∧
      (s.setReg x b).advance.pc = s.pc + 2#16 ∧ KeepsAllBut [.regs, .pc] s (s.setReg x b).advance :=
  ⟨reg_setReg_advance s x b, keepsRegsBut_setReg_advance s x b, State.advance_pc _, keepsAllBut_setReg_advance s x b⟩

/-! ### The obligations -/

/-- Settles O26: both instructions are the one update, with `kk` and with the old `Vy`. -/
theorem loadImmediateAndCopyRegister : Obligations.LoadImmediateAndCopyRegister :=
  ⟨decodeWord_ofXkk_ldImm, decodeWord_ofNibbles_ldReg,
    fun s x kk => ⟨_, exec_ldImm x kk s, setReg_advance_effect s x kk⟩,
    fun s x y => ⟨_, exec_ldReg x y s, setReg_advance_effect s x (s.reg y)⟩⟩

/-- Settles O27: the update writes `Vx` alone, with the sum of bytes, which is the sum `mod 256`. -/
theorem addImmediateWritesNoFlag : Obligations.AddImmediateWritesNoFlag := by
  refine ⟨decodeWord_ofXkk_addImm, fun s x kk => ⟨_, exec_addImm x kk s, ?_⟩⟩
  obtain ⟨hx, hregs, hpc, hframe⟩ := setReg_advance_effect s x (s.reg x + kk)
  refine ⟨?_, hregs, hpc, hframe⟩
  rw [hx, BitVec.toNat_add]

end Sys2Proof.Machine
end

section
/-! PROOFS. Loading the index register (`42_index_memory.md` R201): `Annn`. -/

namespace Sys2Proof

theorem decodeWord_ofNnn_ldI (nnn : Imm12) : decodeWord (ofNnn 0xA nnn) = .ok (.ldI nnn) := by
  have hop : opField (ofNnn 0xA nnn) = 0xA := opField_ofNnn (by decide) nnn
  simp only [decodeWord, hop, nnnField_ofNnn]

end Sys2Proof

namespace Sys2Proof.Machine

theorem exec_ldI (nnn : Imm12) (s : State) : exec (.ldI nnn) s = .next (s.setI (addrOf nnn)).advance := rfl

theorem keepsAllBut_setI_advance (s : State) (w : Word) : KeepsAllBut [.index, .pc] s (s.setI w).advance := by
  apply keepsAllBut_of_fields <;> simp

/-- The whole effect of writing `I`, then `advance()`: `I` holds the word, `PC` is 2 on, and nothing else changes. -/
theorem setI_advance_effect (s : State) (w : Word) :
    (s.setI w).advance.i = w ∧ (s.setI w).advance.pc = s.pc + 2#16 ∧
      KeepsAllBut [.index, .pc] s (s.setI w).advance :=
  ⟨by rw [State.advance_i, State.setI_i], State.advance_pc _, keepsAllBut_setI_advance s w⟩

/-- Settles O33: the instruction writes `I` alone, with `nnn` zero-extended, which has the value of `nnn`. -/
theorem loadIndexImmediate : Obligations.LoadIndexImmediate := by
  refine ⟨decodeWord_ofNnn_ldI, fun s nnn => ⟨_, exec_ldI nnn s, ?_⟩⟩
  obtain ⟨hi, hpc, hframe⟩ := setI_advance_effect s (addrOf nnn)
  exact ⟨by rw [hi, addrOf_toNat], hpc, hframe⟩

end Sys2Proof.Machine
end

section
/-! PROOFS. The jump and the skips on an immediate (`43_control_flow.md` R235, R237, R238): `1nnn`, `3xkk` and
`4xkk`. -/

namespace Sys2Proof

/-! ### How their words decode -/

theorem decodeWord_ofNnn_jp (nnn : Imm12) : decodeWord (ofNnn 0x1 nnn) = .ok (.jp nnn) := by
  have hop : opField (ofNnn 0x1 nnn) = 0x1 := opField_ofNnn (by decide) nnn
  simp only [decodeWord, hop, nnnField_ofNnn]

theorem decodeWord_ofXkk_seImm (x : Reg) (kk : Byte) : decodeWord (ofXkk 0x3 x kk) = .ok (.seImm x kk) := by
  have hop : opField (ofXkk 0x3 x kk) = 0x3 := opField_ofXkk (by decide) x kk
  simp only [decodeWord, hop, xField_ofXkk, kkField_ofXkk]

theorem decodeWord_ofXkk_sneImm (x : Reg) (kk : Byte) : decodeWord (ofXkk 0x4 x kk) = .ok (.sneImm x kk) := by
  have hop : opField (ofXkk 0x4 x kk) = 0x4 := opField_ofXkk (by decide) x kk
  simp only [decodeWord, hop, xField_ofXkk, kkField_ofXkk]

end Sys2Proof

namespace Sys2Proof.Machine

/-! ### What they answer -/

theorem exec_jp (nnn : Imm12) (s : State) : exec (.jp nnn) s = .next (s.jump (addrOf nnn)) := rfl

theorem exec_seImm (x : Reg) (kk : Byte) (s : State) :
    exec (.seImm x kk) s = .next (s.skipIf (s.reg x == kk)) := rfl

theorem exec_sneImm (x : Reg) (kk : Byte) (s : State) :
    exec (.sneImm x kk) s = .next (s.skipIf (s.reg x != kk)) := rfl

/-! ### The updates of `PC` -/

theorem keepsAllBut_jump (s : State) (w : Word) : KeepsAllBut [.pc] s (s.jump w) := by
  apply keepsAllBut_of_fields <;> simp

theorem keepsAllBut_skipIf (s : State) (c : Bool) : KeepsAllBut [.pc] s (s.skipIf c) := keepsAllBut_jump s _

/-- The whole effect of `skip_if` (R233), for a test `c` that decides `P`: `PC` is 4 on where `P` holds and 2 on where
it does not, and nothing else changes. -/
theorem skipIf_effect (s : State) {c : Bool} {P : Prop} (hc : c = true ↔ P) :
    (P → (s.skipIf c).pc = s.pc + 4#16) ∧ (¬ P → (s.skipIf c).pc = s.pc + 2#16) ∧
      KeepsAllBut [.pc] s (s.skipIf c) := by
  refine ⟨fun hP => ?_, fun hP => ?_, keepsAllBut_skipIf s c⟩
  · rw [State.skipIf_pc, if_pos (hc.mpr hP)]
  · rw [State.skipIf_pc, if_neg (mt hc.mp hP)]

/-! ### The obligations -/

/-- Settles O41: the instruction writes `PC` alone, with `nnn` zero-extended, which has the value of `nnn`. -/
theorem jumpSetsProgramCounter : Obligations.JumpSetsProgramCounter := by
  refine ⟨decodeWord_ofNnn_jp, fun s nnn => ⟨_, exec_jp nnn s, ?_, keepsAllBut_jump s _⟩⟩
  rw [State.jump_pc, addrOf_toNat]

/-- Settles O46: both instructions are `skip_if`, `3xkk` with the test for equality and `4xkk` with its negation. -/
theorem skipsOnImmediate : Obligations.SkipsOnImmediate := by
  refine ⟨fun x kk => ⟨decodeWord_ofXkk_seImm x kk, decodeWord_ofXkk_sneImm x kk⟩,
    fun s x kk => ⟨_, exec_seImm x kk s, skipIf_effect s beq_iff_eq⟩,
    fun s x kk => ⟨_, exec_sneImm x kk s, ?_⟩⟩
  obtain ⟨hskip, hadvance, hframe⟩ := skipIf_effect s (bne_iff_ne (a := s.reg x) (b := kk))
  exact ⟨hskip, fun heq => hadvance (not_not_intro heq), hframe⟩

end Sys2Proof.Machine
end

section
/-! PROOFS. The collision flag of `Dxyn` (`44_display.md` R265). -/

namespace Sys2Proof.Machine

/-! ### A draw as the list of pixels it toggles -/

/-- The pixels that the sprite of `Dxyn` toggles (R262 to R264). -/
def State.drawnPoints (s : State) (x y : Reg) (n : Height) : List (Fin 32 × Fin 64) :=
  spritePoints (s.reg x) (s.reg y) 0 (Memory.readSeq s.mem s.i n.val)

/-- What `Dxyn` draws: the framebuffer and the collision it ends with. -/
def State.drawn (s : State) (x y : Reg) (n : Height) : Draw :=
  Draw.toggleAll { fb := s.fb, coll := false } (s.drawnPoints x y n)

theorem exec_drw (x y : Reg) (n : Height) (s : State) :
    exec (.drw x y n) s = .next ((s.setFb (s.drawn x y n).fb).setFlag (s.drawn x y n).coll).advance := by
  rw [State.drawn, State.drawnPoints, ← drawRows_eq]
  rfl

section
variable (s : State) (x y : Reg) (n : Height)

/-- `Dxyn` draws at most 15 rows, so it toggles no pixel twice. -/
theorem drawnPoints_nodup : (s.drawnPoints x y n).Nodup := by
  apply spritePoints_nodup
  rw [readSeq_length]
  omega

theorem pixel_drawn (r : Fin 32) (c : Fin 64) :
    Framebuffer.pixel (s.drawn x y n).fb r c =
      (Framebuffer.pixel s.fb r c ^^ decide ((r, c) ∈ s.drawnPoints x y n)) :=
  (toggleAll_spec _ _ (drawnPoints_nodup s x y n)).1 r c

theorem drawn_coll_iff_mem :
    (s.drawn x y n).coll = true ↔
      ∃ p ∈ s.drawnPoints x y n, Framebuffer.pixel s.fb p.1 p.2 = true := by
  rw [State.drawn, (toggleAll_spec _ _ (drawnPoints_nodup s x y n)).2]
  simp

/-! ### The flag, from the pixels before and after -/

/-- A pixel goes from 1 to 0 exactly when it is 1 and toggled. -/
theorem cleared_by_draw_iff (r : Fin 32) (c : Fin 64) :
    Framebuffer.pixel s.fb r c = true ∧ Framebuffer.pixel (s.drawn x y n).fb r c = false ↔
      (r, c) ∈ s.drawnPoints x y n ∧ Framebuffer.pixel s.fb r c = true := by
  rw [pixel_drawn, and_comm]
  exact and_congr_left fun h => by simp [h]

theorem drawn_coll_eq_true_iff :
    (s.drawn x y n).coll = true ↔
      ∃ r c, Framebuffer.pixel s.fb r c = true ∧ Framebuffer.pixel (s.drawn x y n).fb r c = false := by
  simp only [drawn_coll_iff_mem, cleared_by_draw_iff, Prod.exists]

theorem drawn_coll_eq_false_iff :
    (s.drawn x y n).coll = false ↔
      ∀ r c, Framebuffer.pixel s.fb r c = true → Framebuffer.pixel (s.drawn x y n).fb r c = true := by
  rw [← Bool.not_eq_true, drawn_coll_eq_true_iff]
  simp only [not_exists, not_and, Bool.not_eq_false]

end

/-! ### The obligation -/

theorem reg_setFlag_eq_one_iff (s : State) (c : Bool) : (s.setFlag c).reg VF = 1#8 ↔ c = true := by
  cases c <;> simp

theorem reg_setFlag_eq_zero_iff (s : State) (c : Bool) : (s.setFlag c).reg VF = 0#8 ↔ c = false := by
  cases c <;> simp

/-- Settles O50: `VF` is the collision of the draw, and a toggled pixel that was 1 is one that goes from 1 to 0. -/
theorem collisionIsAPixelGoingFromSetToClear : Obligations.CollisionIsAPixelGoingFromSetToClear := by
  refine fun s x y n => ⟨_, exec_drw x y n s, ?_, ?_⟩
  · rw [State.reg_advance, reg_setFlag_eq_one_iff]
    exact drawn_coll_eq_true_iff s x y n
  · rw [State.reg_advance, reg_setFlag_eq_zero_iff]
    exact drawn_coll_eq_false_iff s x y n

end Sys2Proof.Machine
end

section
/-! PROOFS. The framebuffer read port (`44_display.md` R266). -/

namespace Sys2Proof.Machine

/-- The row-major index `r*64 + c`, as the library's pairing of a row and a column. -/
theorem rowMajor_eq_mkDivMod (r : Fin 32) (c : Fin 64) : r.val * 64 + c.val = (Fin.mkDivMod r c).val := by
  rw [Fin.coe_mkDivMod, Nat.mul_comm]

/-- The port as one list over the indices below 2048: index `k` shows row `k / 64` and column `k % 64`. -/
theorem framebufferPort_eq_ofFn (s : State) :
    s.framebufferPort = List.ofFn fun k : Fin (32 * 64) => Framebuffer.pixel s.fb k.divNat k.modNat := by
  rw [List.ofFn_mul, List.ofFn_eq_map, State.framebufferPort]
  refine congrArg List.flatten (List.map_congr_left fun r _ => ?_)
  rw [List.ofFn_eq_map]
  refine List.map_congr_left fun c _ => ?_
  simp only [rowMajor_eq_mkDivMod, Fin.eta, Fin.divNat_mkDivMod, Fin.modNat_mkDivMod]

/-- Settles O60: index `r*64 + c` has the quotient `r` and the remainder `c` by 64. -/
theorem framebufferPortIsRowMajor : Obligations.FramebufferPortIsRowMajor := by
  intro s
  rw [framebufferPort_eq_ofFn]
  refine ⟨List.length_ofFn, fun r c => ?_⟩
  rw [rowMajor_eq_mkDivMod, List.getElem?_ofFn, dif_pos (Fin.isLt _), Fin.eta, Fin.divNat_mkDivMod,
    Fin.modNat_mkDivMod]

end Sys2Proof.Machine
end

section
/-! PROOFS. What a load places (`70_reset_and_hazards.md` R352, R355): the font at `0x050`, the image at `0x200`. -/

namespace Sys2Proof.Machine

/-! ### A sequence of writes that does not wrap -/

namespace Memory

theorem ea_of_lt {base : Word} {k : Nat} (h : base.toNat + k < 4096) : ea base k = base.toNat + k :=
  Nat.mod_eq_of_lt h

section
variable {m : Memory} {base : Word} {bs : List Byte} (hfit : base.toNat + bs.length ≤ 4096)
include hfit

theorem read_writeSeq_inside (hm : wf m = true) {j : Nat} (hj : j < bs.length) :
    read (writeSeq m base 0 bs) (base.toNat + j) = bs[j] := by
  have hbyte := read_writeSeq_at base 0 bs hm (by omega) j hj
  rwa [Nat.zero_add, ea_of_lt (by omega)] at hbyte

theorem read_writeSeq_outside {a : Nat} (ha : a < base.toNat ∨ base.toNat + bs.length ≤ a) :
    read (writeSeq m base 0 bs) a = read m a := by
  apply read_writeSeq_other
  intro j hj
  rw [Nat.zero_add, ea_of_lt (by omega)]
  omega

end

end Memory

/-! ### The font bytes -/

theorem fontBytes_eq_flatten (font : Font) : fontBytes font = font.flatten.toList := by
  simp only [Vector.flatten, Vector.toList_mk, Array.toList_flatten, Array.toList_map, List.map_map]
  rfl

/-- Byte `k` of glyph `d` stands at place `5*d + k`. -/
theorem getElem_fontBytes (font : Font) (d : Fin 16) (k : Fin 5) (h : 5 * d.val + k.val < (fontBytes font).length) :
    (fontBytes font)[5 * d.val + k.val] = font[d.val][k.val] := by
  have hdiv : (5 * d.val + k.val) / 5 = d.val := by omega
  have hmod : (5 * d.val + k.val) % 5 = k.val := by omega
  simp only [fontBytes_eq_flatten, Vector.getElem_toList, Vector.getElem_flatten, hdiv, hmod]

/-! ### The memory a load leaves -/

section
variable (s : State) (font : Font) {image : List Byte} (hfit : image.length ≤ 3584)
include hfit

theorem read_loadImage_image (hm : Memory.wf s.mem = true) {k : Nat} (hk : k < image.length) :
    Memory.read (s.loadImage font image).mem (0x200 + k) = image[k] :=
  Memory.read_writeSeq_inside (base := programBase) (Nat.add_le_add_left hfit 0x200) (Memory.writeSeq_wf _ _ _ hm) hk

theorem read_loadImage_outside_image {a : Nat} (ha : a < 0x200 ∨ 0x200 + image.length ≤ a) :
    Memory.read (s.loadImage font image).mem a =
      Memory.read (Memory.writeSeq s.mem fontBase 0 (fontBytes font)) a :=
  Memory.read_writeSeq_outside (base := programBase) (Nat.add_le_add_left hfit 0x200) ha

theorem read_loadImage_font (hm : Memory.wf s.mem = true) (d : Fin 16) (k : Fin 5) :
    Memory.read (s.loadImage font image).mem (0x050 + 5 * d.val + k.val) = font[d.val][k.val] := by
  have hplace : 5 * d.val + k.val < (fontBytes font).length := by rw [fontBytes_length]; omega
  have hfont : fontBase.toNat + (fontBytes font).length ≤ 4096 := by rw [fontBytes_length]; decide
  rw [read_loadImage_outside_image s font hfit (by omega), Nat.add_assoc, ← getElem_fontBytes font d k hplace]
  exact Memory.read_writeSeq_inside hfont hm hplace

theorem read_loadImage_outside {a : Nat} (hfont : a < 0x050 ∨ 0x0A0 ≤ a)
    (himage : a < 0x200 ∨ 0x200 + image.length ≤ a) :
    Memory.read (s.loadImage font image).mem a = Memory.read s.mem a := by
  rw [read_loadImage_outside_image s font hfit himage]
  apply Memory.read_writeSeq_outside <;> rw [fontBytes_length]
  · decide
  · exact hfont

end

/-! ### The rest of the state, and the outcome -/

theorem keepsAllBut_loadImage (s : State) (font : Font) (image : List Byte) :
    KeepsAllBut [.memory, .loaded] s (s.loadImage font image) := by
  apply keepsAllBut_of_fields <;> simp [State.loadImage, State.reg]

/-- A state with its reset values fetches at `0x200`, where an empty image leaves the zeros of reset. -/
theorem fetchWord_loadImage_nil {s : State} (h : s.HasResetValues) (font : Font) :
    (s.loadImage font []).fetchWord = 0x0000#16 := by
  have hpc : (s.loadImage font []).pc = 0x200#16 := h.pc
  have hzero : ∀ a, 0x200 ≤ a → Memory.read (s.loadImage font []).mem a = 0#8 := fun a ha => by
    rw [read_loadImage_outside s font (Nat.zero_le _) (.inr (by omega)) (.inr ha), h.memory]
  rw [State.fetchWord, hpc, hzero _ (by decide), hzero _ (by decide)]
  rfl

theorem loadResult_of_fits {image : List Byte} (hfit : image.length ≤ 3584) : loadResult image = .loadOk :=
  if_pos hfit

theorem perform_load_of_fits {s : State} (font : Font) {image : List Byte} (hunloaded : s.loaded = false)
    (hfit : image.length ≤ 3584) : perform (.load font image) s = .next (s.loadImage font image) := by
  obtain ⟨hloaded, -⟩ | ⟨-, -, hload⟩ | ⟨-, hlarge, -⟩ := load_cases font image s
  · simp [hunloaded] at hloaded
  · exact hload
  · omega

/-- Settles O58: the image is written over the font's writes and does not reach them, and neither wraps. -/
theorem loadPlacesFontAndImage : Obligations.LoadPlacesFontAndImage := by
  intro s font image hm hunloaded hfit
  refine ⟨loadResult_of_fits hfit, s.loadImage font image, perform_load_of_fits font hunloaded hfit, rfl,
    read_loadImage_font s font hfit hm, fun k hk => read_loadImage_image s font hfit hm hk,
    fun a => read_loadImage_outside s font hfit, keepsAllBut_loadImage s font image, ?_⟩
  rintro rfl hreset
  exact ⟨fetchWord_loadImage_nil hreset font, by decide⟩

end Sys2Proof.Machine
end

section
/-! PROOFS. The decoder and the opcode table (`30_encoding.md` R100 to R107, R112): how the words of every row decode,
that decoding undoes encoding, and which words are no instruction. -/

namespace Sys2Proof

/-! ### How the words of each row decode, whatever their don't-care bits are -/

theorem low_ofNibbles (a b : Nat) {c d : Nat} (hc : c < 16) (hd : d < 16) :
    field (ofNibbles a b c d) 7 0 = c * 16 + d := by
  simp only [field, ofNibbles, BitVec.toNat_ofNat]
  omega

section
variable (x y : Reg) (kk : Byte) (nnn : Imm12) {b c d : Nat}

theorem decodeWord_ofNibbles_cls (hb : b < 16) : decodeWord (ofNibbles 0x0 b 0xE 0x0) = .ok .cls := by
  simp [decodeWord, opField_ofNibbles, low_ofNibbles, hb]

theorem decodeWord_ofNibbles_ret (hb : b < 16) : decodeWord (ofNibbles 0x0 b 0xE 0xE) = .ok .ret := by
  simp [decodeWord, opField_ofNibbles, low_ofNibbles, hb]

theorem decodeWord_ofNnn_call : decodeWord (ofNnn 0x2 nnn) = .ok (.call nnn) := by
  simp [decodeWord, opField_ofNnn, nnnField_ofNnn]

theorem decodeWord_ofNibbles_seReg (hd : d < 16) : decodeWord (ofNibbles 0x5 x.val y.val d) = .ok (.seReg x y) := by
  simp [decodeWord, opField_ofNibbles, xField_ofNibbles, yField_ofNibbles, hd]

theorem decodeWord_ofNibbles_orReg : decodeWord (ofNibbles 0x8 x.val y.val 0x1) = .ok (.orReg x y) := by
  simp [decodeWord, opField_ofNibbles, nibble_ofNibbles, xField_ofNibbles, yField_ofNibbles]

theorem decodeWord_ofNibbles_andReg : decodeWord (ofNibbles 0x8 x.val y.val 0x2) = .ok (.andReg x y) := by
  simp [decodeWord, opField_ofNibbles, nibble_ofNibbles, xField_ofNibbles, yField_ofNibbles]

theorem decodeWord_ofNibbles_xorReg : decodeWord (ofNibbles 0x8 x.val y.val 0x3) = .ok (.xorReg x y) := by
  simp [decodeWord, opField_ofNibbles, nibble_ofNibbles, xField_ofNibbles, yField_ofNibbles]

theorem decodeWord_ofNibbles_addReg : decodeWord (ofNibbles 0x8 x.val y.val 0x4) = .ok (.addReg x y) := by
  simp [decodeWord, opField_ofNibbles, nibble_ofNibbles, xField_ofNibbles, yField_ofNibbles]

theorem decodeWord_ofNibbles_subReg : decodeWord (ofNibbles 0x8 x.val y.val 0x5) = .ok (.subReg x y) := by
  simp [decodeWord, opField_ofNibbles, nibble_ofNibbles, xField_ofNibbles, yField_ofNibbles]

theorem decodeWord_ofNibbles_shr (hc : c < 16) : decodeWord (ofNibbles 0x8 x.val c 0x6) = .ok (.shr x) := by
  simp [decodeWord, opField_ofNibbles, nibble_ofNibbles, xField_ofNibbles, hc]

theorem decodeWord_ofNibbles_subn : decodeWord (ofNibbles 0x8 x.val y.val 0x7) = .ok (.subn x y) := by
  simp [decodeWord, opField_ofNibbles, nibble_ofNibbles, xField_ofNibbles, yField_ofNibbles]

theorem decodeWord_ofNibbles_shl (hc : c < 16) : decodeWord (ofNibbles 0x8 x.val c 0xE) = .ok (.shl x) := by
  simp [decodeWord, opField_ofNibbles, nibble_ofNibbles, xField_ofNibbles, hc]

theorem decodeWord_ofNibbles_sneReg (hd : d < 16) : decodeWord (ofNibbles 0x9 x.val y.val d) = .ok (.sneReg x y) := by
  simp [decodeWord, opField_ofNibbles, xField_ofNibbles, yField_ofNibbles, hd]

theorem decodeWord_ofNnn_jpV0 : decodeWord (ofNnn 0xB nnn) = .ok (.jpV0 nnn) := by
  simp [decodeWord, opField_ofNnn, nnnField_ofNnn]

theorem decodeWord_ofXkk_rnd : decodeWord (ofXkk 0xC x kk) = .ok (.rnd x kk) := by
  simp [decodeWord, opField_ofXkk, xField_ofXkk, kkField_ofXkk]

theorem decodeWord_ofNibbles_drw (n : Height) : decodeWord (ofNibbles 0xD x.val y.val n.val) = .ok (.drw x y n) := by
  simp [decodeWord, opField_ofNibbles, xField_ofNibbles, yField_ofNibbles, nField_ofNibbles]

theorem decodeWord_ofXkk_skp : decodeWord (ofXkk 0xE x 0x9E#8) = .ok (.skp x) := by
  simp [decodeWord, opField_ofXkk, low_ofXkk, xField_ofXkk]

theorem decodeWord_ofXkk_sknp : decodeWord (ofXkk 0xE x 0xA1#8) = .ok (.sknp x) := by
  simp [decodeWord, opField_ofXkk, low_ofXkk, xField_ofXkk]

theorem decodeWord_ofXkk_ldVxDt : decodeWord (ofXkk 0xF x 0x07#8) = .ok (.ldVxDt x) := by
  simp [decodeWord, opField_ofXkk, low_ofXkk, xField_ofXkk]

theorem decodeWord_ofXkk_ldVxKey : decodeWord (ofXkk 0xF x 0x0A#8) = .ok (.ldVxKey x) := by
  simp [decodeWord, opField_ofXkk, low_ofXkk, xField_ofXkk]

theorem decodeWord_ofXkk_ldDt : decodeWord (ofXkk 0xF x 0x15#8) = .ok (.ldDt x) := by
  simp [decodeWord, opField_ofXkk, low_ofXkk, xField_ofXkk]

theorem decodeWord_ofXkk_ldSt : decodeWord (ofXkk 0xF x 0x18#8) = .ok (.ldSt x) := by
  simp [decodeWord, opField_ofXkk, low_ofXkk, xField_ofXkk]

theorem decodeWord_ofXkk_addI : decodeWord (ofXkk 0xF x 0x1E#8) = .ok (.addI x) := by
  simp [decodeWord, opField_ofXkk, low_ofXkk, xField_ofXkk]

theorem decodeWord_ofXkk_ldFont : decodeWord (ofXkk 0xF x 0x29#8) = .ok (.ldFont x) := by
  simp [decodeWord, opField_ofXkk, low_ofXkk, xField_ofXkk]

theorem decodeWord_ofXkk_ldBcd : decodeWord (ofXkk 0xF x 0x33#8) = .ok (.ldBcd x) := by
  simp [decodeWord, opField_ofXkk, low_ofXkk, xField_ofXkk]

theorem decodeWord_ofXkk_storeRegs : decodeWord (ofXkk 0xF x 0x55#8) = .ok (.storeRegs x) := by
  simp [decodeWord, opField_ofXkk, low_ofXkk, xField_ofXkk]

theorem decodeWord_ofXkk_loadRegs : decodeWord (ofXkk 0xF x 0x65#8) = .ok (.loadRegs x) := by
  simp [decodeWord, opField_ofXkk, low_ofXkk, xField_ofXkk]

end

/-! ### Words written as a selector plus their operands -/

section
variable {a b c d op : Nat} {x : Reg} {kk : Byte} {i : Instr}

theorem decodeWord_of_ofNibbles (h : decodeWord (ofNibbles a b c d) = .ok i) :
    decodeWord (BitVec.ofNat 16 (a * 4096 + d + b * 0x100 + c * 0x10)) = .ok i := by
  rw [← h, ofNibbles, show a * 4096 + d + b * 0x100 + c * 0x10 = a * 4096 + b * 256 + c * 16 + d by omega]

theorem decodeWord_of_ofNibbles_low (h : decodeWord (ofNibbles a b c d) = .ok i) :
    decodeWord (BitVec.ofNat 16 (a * 4096 + (c * 16 + d) + b * 0x100)) = .ok i := by
  rw [← h, ofNibbles, show a * 4096 + (c * 16 + d) + b * 0x100 = a * 4096 + b * 256 + c * 16 + d by omega]

theorem decodeWord_of_ofXkk (h : decodeWord (ofXkk op x kk) = .ok i) :
    decodeWord (BitVec.ofNat 16 (op * 4096 + kk.toNat + x.val * 0x100)) = .ok i := by
  rw [← h, ofXkk, show op * 4096 + kk.toNat + x.val * 0x100 = op * 4096 + x.val * 256 + kk.toNat by omega]

end

/-! ### Decoding undoes encoding -/

theorem decodeWord_encode (i : Instr) : decodeWord (encode i) = .ok i := by
  cases i with
  | cls => exact decodeWord_ofNibbles_cls (b := 0) (by decide)
  | ret => exact decodeWord_ofNibbles_ret (b := 0) (by decide)
  | jp nnn => exact decodeWord_ofNnn_jp nnn
  | call nnn => exact decodeWord_ofNnn_call nnn
  | seImm x kk => exact decodeWord_ofXkk_seImm x kk
  | sneImm x kk => exact decodeWord_ofXkk_sneImm x kk
  | seReg x y => exact decodeWord_ofNibbles_seReg x y (by decide)
  | ldImm x kk => exact decodeWord_ofXkk_ldImm x kk
  | addImm x kk => exact decodeWord_ofXkk_addImm x kk
  | ldReg x y => exact decodeWord_ofNibbles_ldReg x y
  | orReg x y => exact decodeWord_ofNibbles_orReg x y
  | andReg x y => exact decodeWord_ofNibbles_andReg x y
  | xorReg x y => exact decodeWord_ofNibbles_xorReg x y
  | addReg x y => exact decodeWord_ofNibbles_addReg x y
  | subReg x y => exact decodeWord_ofNibbles_subReg x y
  | shr x => exact decodeWord_ofNibbles_shr x (by decide)
  | subn x y => exact decodeWord_ofNibbles_subn x y
  | shl x => exact decodeWord_ofNibbles_shl x (by decide)
  | sneReg x y => exact decodeWord_ofNibbles_sneReg x y (by decide)
  | ldI nnn => exact decodeWord_ofNnn_ldI nnn
  | jpV0 nnn => exact decodeWord_ofNnn_jpV0 nnn
  | rnd x kk => exact decodeWord_ofXkk_rnd x kk
  | drw x y n => exact decodeWord_ofNibbles_drw x y n
  | skp x => exact decodeWord_ofXkk_skp x
  | sknp x => exact decodeWord_ofXkk_sknp x
  | ldVxDt x => exact decodeWord_ofXkk_ldVxDt x
  | ldVxKey x => exact decodeWord_ofXkk_ldVxKey x
  | ldDt x => exact decodeWord_ofXkk_ldDt x
  | ldSt x => exact decodeWord_ofXkk_ldSt x
  | addI x => exact decodeWord_ofXkk_addI x
  | ldFont x => exact decodeWord_ofXkk_ldFont x
  | ldBcd x => exact decodeWord_ofXkk_ldBcd x
  | storeRegs x => exact decodeWord_ofXkk_storeRegs x
  | loadRegs x => exact decodeWord_ofXkk_loadRegs x

theorem decode_bytesOfWord_append (w : Word) (rest : List Byte) : decode (bytesOfWord w ++ rest) = decodeWord w :=
  congrArg decodeWord (wordOfBytes_bytesOfWord w)

/-- Settles O1: every word of a row decodes to its instruction, and a word's two bytes decode as the word. -/
theorem encodedInstructionsDecodeToThemselves : Obligations.EncodedInstructionsDecodeToThemselves :=
  fun i rest => ⟨decodeWord_encode i, by rw [decode_bytesOfWord_append, decodeWord_encode]⟩

/-! ### A word is put together again from its fields -/

theorem field_lt (w : Word) (hi lo : Nat) : field w hi lo < 2 ^ (hi + 1 - lo) := Nat.mod_lt _ (Nat.two_pow_pos _)

theorem val_xField (w : Word) : (xField w).val = field w 11 8 := Nat.mod_eq_of_lt (field_lt w 11 8)

theorem val_yField (w : Word) : (yField w).val = field w 7 4 := Nat.mod_eq_of_lt (field_lt w 7 4)

theorem val_nField (w : Word) : (nField w).val = field w 3 0 := Nat.mod_eq_of_lt (field_lt w 3 0)

theorem low_eq_nibbles (w : Word) : field w 7 0 = field w 7 4 * 16 + field w 3 0 := by
  simp only [field]
  omega

theorem ofNnn_fields {w : Word} {op : Nat} (hop : opField w = op) : ofNnn op (nnnField w) = w := by
  subst hop
  have := w.isLt
  apply BitVec.eq_of_toNat_eq
  simp only [ofNnn, opField, nnnField, field, BitVec.toNat_ofNat]
  omega

theorem ofXkk_fields {w : Word} {op : Nat} (hop : opField w = op) : ofXkk op (xField w) (kkField w) = w := by
  subst hop
  have := w.isLt
  apply BitVec.eq_of_toNat_eq
  simp only [ofXkk, opField, xField, kkField, field, Fin.ofNat, BitVec.toNat_ofNat]
  omega

theorem ofXkk_selector {w : Word} {op : Nat} {kk : Byte} (hop : opField w = op) (hkk : field w 7 0 = kk.toNat) :
    ofXkk op (xField w) kk = w := by
  have hfield : kkField w = kk := by rw [kkField, hkk, BitVec.ofNat_toNat, BitVec.setWidth_eq]
  rw [← hfield]
  exact ofXkk_fields hop

theorem ofNibbles_fields {w : Word} {a b c d : Nat} (ha : opField w = a) (hb : field w 11 8 = b)
    (hc : field w 7 4 = c) (hd : field w 3 0 = d) : ofNibbles a b c d = w := by
  subst ha hb hc hd
  rw [ofNibbles, ← toNat_eq_fields, BitVec.ofNat_toNat, BitVec.setWidth_eq]

end Sys2Proof
end

section
/-! PROOFS. The rows of the opcode table and the words that match none (`30_encoding.md` R104 to R107, R112). -/

namespace Sys2Proof

/-! ### A word that a row selects decodes, and one that it spells is written back by the encoder -/

/-- What a row of the table has to do with the decoder and the encoder. -/
def OpcodeRow.Decodes (r : OpcodeRow) : Prop :=
  ∀ w, r.selects w = true → ∃ i, decodeWord w = .ok i ∧ (r.spells w = true → encode i = w)

section
variable {p : String} {op k : Nat} {zs : List FixedField} {w : Word}

theorem selects_op : OpcodeRow.selects ⟨p, [⟨15, 12, op⟩], zs⟩ w = true ↔ opField w = op := by
  simp [OpcodeRow.selects, opField]

theorem selects_op_n :
    OpcodeRow.selects ⟨p, [⟨15, 12, op⟩, ⟨3, 0, k⟩], zs⟩ w = true ↔ opField w = op ∧ field w 3 0 = k := by
  simp [OpcodeRow.selects, opField]

theorem selects_op_kk :
    OpcodeRow.selects ⟨p, [⟨15, 12, op⟩, ⟨7, 0, k⟩], zs⟩ w = true ↔ opField w = op ∧ field w 7 0 = k := by
  simp [OpcodeRow.selects, opField]

end

/-- A row whose every word is the word of an instruction: one without don't-care bits. -/
theorem OpcodeRow.decodes_of_encode {r : OpcodeRow} (h : ∀ w, r.selects w = true → ∃ i, encode i = w) : r.Decodes := by
  intro w hw
  obtain ⟨i, rfl⟩ := h w hw
  exact ⟨i, decodeWord_encode i, fun _ => rfl⟩

section
variable {p : String} {op : Nat}

theorem decodes_nnn (mk : Imm12 → Instr) (henc : ∀ nnn, encode (mk nnn) = ofNnn op nnn) : (opRow p op).Decodes := by
  refine OpcodeRow.decodes_of_encode fun w hw => ⟨mk (nnnField w), ?_⟩
  have hop : opField w = op := selects_op.1 hw
  rw [henc, ofNnn_fields hop]

theorem decodes_xkk (mk : Reg → Byte → Instr) (henc : ∀ x kk, encode (mk x kk) = ofXkk op x kk) :
    (opRow p op).Decodes := by
  refine OpcodeRow.decodes_of_encode fun w hw => ⟨mk (xField w) (kkField w), ?_⟩
  have hop : opField w = op := selects_op.1 hw
  rw [henc, ofXkk_fields hop]

theorem decodes_x (mk : Reg → Instr) (kk : Byte) (henc : ∀ x, encode (mk x) = ofXkk op x kk) :
    (kkRow p op kk.toNat).Decodes := by
  refine OpcodeRow.decodes_of_encode fun w hw => ⟨mk (xField w), ?_⟩
  obtain ⟨hop, hkk⟩ : opField w = op ∧ field w 7 0 = kk.toNat := selects_op_kk.1 hw
  rw [henc, ofXkk_selector hop hkk]

theorem decodes_xy {n : Nat} (mk : Reg → Reg → Instr)
    (henc : ∀ x y : Reg, encode (mk x y) = ofNibbles op x.val y.val n) : (nRow p op n).Decodes := by
  refine OpcodeRow.decodes_of_encode fun w hw => ⟨mk (xField w) (yField w), ?_⟩
  obtain ⟨hop, hn⟩ : opField w = op ∧ field w 3 0 = n := selects_op_n.1 hw
  rw [henc, ofNibbles_fields hop (val_xField w).symm (val_yField w).symm hn]

theorem decodes_xyn (mk : Reg → Reg → Height → Instr)
    (henc : ∀ (x y : Reg) (n : Height), encode (mk x y n) = ofNibbles op x.val y.val n.val) :
    (opRow p op).Decodes := by
  refine OpcodeRow.decodes_of_encode fun w hw => ⟨mk (xField w) (yField w) (nField w), ?_⟩
  have hop : opField w = op := selects_op.1 hw
  rw [henc, ofNibbles_fields hop (val_xField w).symm (val_yField w).symm (val_nField w).symm]

/-- A row whose low nibble is not examined (D3). -/
theorem decodes_xy_anyLow (mk : Reg → Reg → Instr)
    (hdec : ∀ (x y : Reg) {d : Nat}, d < 16 → decodeWord (ofNibbles op x.val y.val d) = .ok (mk x y))
    (henc : ∀ x y : Reg, encode (mk x y) = ofNibbles op x.val y.val 0) :
    OpcodeRow.Decodes { opRow p op with dontCare := [⟨3, 0, 0⟩] } := by
  intro w hw
  have hop : opField w = op := selects_op.1 hw
  have hfields := ofNibbles_fields hop (val_xField w).symm (val_yField w).symm rfl
  refine ⟨mk (xField w) (yField w), ?_, fun hspell => ?_⟩
  · rw [← hdec _ _ (field_lt w 3 0), hfields]
  · have hlow : field w 3 0 = 0 := by simpa [OpcodeRow.spells, hw] using hspell
    rw [henc, ← hlow, hfields]

/-- A row whose nibble `y` is not examined (D9). -/
theorem decodes_x_anyY {n : Nat} (mk : Reg → Instr)
    (hdec : ∀ (x : Reg) {c : Nat}, c < 16 → decodeWord (ofNibbles op x.val c n) = .ok (mk x))
    (henc : ∀ x : Reg, encode (mk x) = ofNibbles op x.val 0 n) :
    OpcodeRow.Decodes { nRow p op n with dontCare := [⟨7, 4, 0⟩] } := by
  intro w hw
  obtain ⟨hop, hn⟩ : opField w = op ∧ field w 3 0 = n := selects_op_n.1 hw
  have hfields := ofNibbles_fields hop (val_xField w).symm rfl hn
  refine ⟨mk (xField w), ?_, fun hspell => ?_⟩
  · rw [← hdec _ (field_lt w 7 4), hfields]
  · have hy : field w 7 4 = 0 := by simpa [OpcodeRow.spells, hw] using hspell
    rw [henc, ← hy, hfields]

/-- A row whose nibble `x` is not examined (D2). -/
theorem decodes_anyX {c d : Nat} (hd : d < 16) (i : Instr)
    (hdec : ∀ {b : Nat}, b < 16 → decodeWord (ofNibbles op b c d) = .ok i) (henc : encode i = ofNibbles op 0 c d) :
    OpcodeRow.Decodes { kkRow p op (c * 16 + d) with dontCare := [⟨11, 8, 0⟩] } := by
  intro w hw
  obtain ⟨hop, hkk⟩ : opField w = op ∧ field w 7 0 = c * 16 + d := selects_op_kk.1 hw
  have hsplit := low_eq_nibbles w
  have hn : field w 3 0 < 16 := field_lt w 3 0
  have hfields := ofNibbles_fields (b := field w 11 8) (c := c) (d := d) hop rfl (by omega) (by omega)
  refine ⟨i, ?_, fun hspell => ?_⟩
  · rw [← hdec (field_lt w 11 8), hfields]
  · have hx : field w 11 8 = 0 := by simpa [OpcodeRow.spells, hw] using hspell
    rw [henc, ← hx, hfields]

end

theorem opcodeRows_decode : ∀ r ∈ opcodeRows, r.Decodes := by
  simp only [opcodeRows, List.forall_mem_append, List.forall_mem_cons]
  exact ⟨⟨decodes_anyX (c := 0xE) (d := 0x0) (by decide) .cls decodeWord_ofNibbles_cls rfl,
    decodes_anyX (c := 0xE) (d := 0xE) (by decide) .ret decodeWord_ofNibbles_ret rfl,
    decodes_nnn .jp fun _ => rfl, decodes_nnn .call fun _ => rfl,
    decodes_xkk .seImm fun _ _ => rfl, decodes_xkk .sneImm fun _ _ => rfl,
    decodes_xy_anyLow .seReg decodeWord_ofNibbles_seReg fun _ _ => rfl,
    decodes_xkk .ldImm fun _ _ => rfl, decodes_xkk .addImm fun _ _ => rfl,
    decodes_xy .ldReg fun _ _ => rfl, decodes_xy .orReg fun _ _ => rfl, decodes_xy .andReg fun _ _ => rfl,
    decodes_xy .xorReg fun _ _ => rfl, decodes_xy .addReg fun _ _ => rfl, decodes_xy .subReg fun _ _ => rfl,
    decodes_x_anyY .shr decodeWord_ofNibbles_shr fun _ => rfl, decodes_xy .subn fun _ _ => rfl,
    decodes_x_anyY .shl decodeWord_ofNibbles_shl fun _ => rfl,
    decodes_xy_anyLow .sneReg decodeWord_ofNibbles_sneReg fun _ _ => rfl, List.forall_mem_nil _⟩,
    decodes_nnn .ldI fun _ => rfl, decodes_nnn .jpV0 fun _ => rfl, decodes_xkk .rnd fun _ _ => rfl,
    decodes_xyn .drw fun _ _ _ => rfl, decodes_x .skp 0x9E#8 fun _ => rfl, decodes_x .sknp 0xA1#8 fun _ => rfl,
    decodes_x .ldVxDt 0x07#8 fun _ => rfl, decodes_x .ldVxKey 0x0A#8 fun _ => rfl,
    decodes_x .ldDt 0x15#8 fun _ => rfl, decodes_x .ldSt 0x18#8 fun _ => rfl, decodes_x .addI 0x1E#8 fun _ => rfl,
    decodes_x .ldFont 0x29#8 fun _ => rfl, decodes_x .ldBcd 0x33#8 fun _ => rfl,
    decodes_x .storeRegs 0x55#8 fun _ => rfl, decodes_x .loadRegs 0x65#8 fun _ => rfl, List.forall_mem_nil _⟩

theorem OpcodeRow.selects_of_spells {r : OpcodeRow} {w : Word} (h : r.spells w = true) : r.selects w = true :=
  (Bool.and_eq_true_iff.1 h).1

/-- Settles O2: the row that spells the word decodes it, and to an instruction with that word. -/
theorem canonicalWordsReencodeToThemselves : Obligations.CanonicalWordsReencodeToThemselves := by
  intro w hw
  obtain ⟨r, hr, hspell⟩ := List.any_eq_true.1 hw
  obtain ⟨i, hdec, henc⟩ := opcodeRows_decode r hr w (OpcodeRow.selects_of_spells hspell)
  exact ⟨i, hdec, henc hspell⟩

/-! ### Two rows differ in a field that both examine -/

/-- The two fields are the same bits, with different values. -/
def FixedField.conflicts (f g : FixedField) : Bool := f.hi == g.hi && f.lo == g.lo && f.value != g.value

/-- Some field that both rows examine has different values in them. -/
def OpcodeRow.conflicts (r q : OpcodeRow) : Bool := r.examined.any fun f => q.examined.any f.conflicts

theorem opcodeRows_conflict : opcodeRows.Pairwise fun r q => r.conflicts q = true := by decide

theorem OpcodeRow.not_both_select {r q : OpcodeRow} (h : r.conflicts q = true) (w : Word) :
    ¬(r.selects w = true ∧ q.selects w = true) := by
  rintro ⟨hr, hq⟩
  simp only [OpcodeRow.conflicts, FixedField.conflicts, List.any_eq_true, Bool.and_eq_true, beq_iff_eq, bne_iff_ne] at h
  obtain ⟨f, hf, g, hg, ⟨hhi, hlo⟩, hvalue⟩ := h
  have hfw : field w f.hi f.lo = f.value := by simpa using List.all_eq_true.1 hr f hf
  have hgw : field w g.hi g.lo = g.value := by simpa using List.all_eq_true.1 hq g hg
  exact hvalue (by rw [← hfw, ← hgw, hhi, hlo])

/-! ### The words that do not decode, family by family (R106) -/

section
variable {w : Word}

theorem unknown_family0 (hop : opField w = 0x0) :
    decodeWord w = .error (.unknownOpcode w) ↔ field w 7 0 ∉ [0xE0, 0xEE] := by
  simp only [decodeWord, hop]
  split <;> simp_all

theorem unknown_family8 (hop : opField w = 0x8) :
    decodeWord w = .error (.unknownOpcode w) ↔ field w 3 0 ∉ [0, 1, 2, 3, 4, 5, 6, 7, 0xE] := by
  simp only [decodeWord, hop]
  split <;> simp_all

theorem unknown_familyE (hop : opField w = 0xE) :
    decodeWord w = .error (.unknownOpcode w) ↔ field w 7 0 ∉ [0x9E, 0xA1] := by
  simp only [decodeWord, hop]
  split <;> simp_all

theorem unknown_familyF (hop : opField w = 0xF) :
    decodeWord w = .error (.unknownOpcode w) ↔
      field w 7 0 ∉ [0x07, 0x0A, 0x15, 0x18, 0x1E, 0x29, 0x33, 0x55, 0x65] := by
  simp only [decodeWord, hop]
  split <;> simp_all

/-- A row that examines `fs` selects the words that hold the values of `fs`. -/
theorem known_of_examined {fs : List FixedField} (hrow : ∃ r ∈ opcodeRows, r.examined = fs)
    (hw : ∀ f ∈ fs, field w f.hi f.lo = f.value) : ∃ r ∈ opcodeRows, r.selects w = true := by
  obtain ⟨r, hr, rfl⟩ := hrow
  exact ⟨r, hr, List.all_eq_true.2 fun f hf => by simpa using hw f hf⟩

/-- Every word of the other twelve families is known: `op` alone selects its row. -/
theorem known_of_other_family (hop : opField w ∉ [0x0, 0x8, 0xE, 0xF]) : ∃ r ∈ opcodeRows, r.selects w = true := by
  have hrow : ∀ op < 16, op ∉ [0x0, 0x8, 0xE, 0xF] → ∃ r ∈ opcodeRows, r.examined = [⟨15, 12, op⟩] := by decide
  exact known_of_examined (hrow _ (field_lt w 15 12) hop) (by simp)

theorem known_of_family8 (hop : opField w = 0x8) (hn : field w 3 0 ∈ [0, 1, 2, 3, 4, 5, 6, 7, 0xE]) :
    ∃ r ∈ opcodeRows, r.selects w = true := by
  have hrow : ∀ n ∈ [0, 1, 2, 3, 4, 5, 6, 7, 0xE], ∃ r ∈ opcodeRows, r.examined = [⟨15, 12, 0x8⟩, ⟨3, 0, n⟩] := by
    decide
  exact known_of_examined (hrow _ hn) (by simpa [opField] using hop)

/-- In the families 0, E and F a word with one of the listed low bytes is known. -/
theorem known_of_low {op : Nat} {ks : List Nat} (hop : opField w = op) (hkk : field w 7 0 ∈ ks)
    (hrow : ∀ kk ∈ ks, ∃ r ∈ opcodeRows, r.examined = [⟨15, 12, op⟩, ⟨7, 0, kk⟩]) :
    ∃ r ∈ opcodeRows, r.selects w = true :=
  known_of_examined (hrow _ hkk) (by simpa [opField] using hop)

theorem unknown_of_unselected (h : ¬∃ r ∈ opcodeRows, r.selects w = true) :
    decodeWord w = .error (.unknownOpcode w) := by
  have hop : opField w ∈ [0x0, 0x8, 0xE, 0xF] := by_contra fun hop => h (known_of_other_family hop)
  simp only [List.mem_cons, List.not_mem_nil, or_false] at hop
  obtain hop | hop | hop | hop := hop
  · exact (unknown_family0 hop).2 fun hkk => h (known_of_low hop hkk (by decide))
  · exact (unknown_family8 hop).2 fun hn => h (known_of_family8 hop hn)
  · exact (unknown_familyE hop).2 fun hkk => h (known_of_low hop hkk (by decide))
  · exact (unknown_familyF hop).2 fun hkk => h (known_of_low hop hkk (by decide))

end

/-- Settles O3: rows conflict pairwise, each decodes its words, and the words of no row are the unknown ones. -/
theorem eachWordMatchesOneRowOrIsUnknown : Obligations.EachWordMatchesOneRowOrIsUnknown := by
  refine ⟨fun w => opcodeRows_conflict.imp fun h => OpcodeRow.not_both_select h w, ?_, ?_⟩
  · rintro w ⟨r, hr, hw⟩
    obtain ⟨i, hdec, -⟩ := opcodeRows_decode r hr w hw
    exact ⟨i, hdec⟩
  · intro w hw
    refine unknown_of_unselected ?_
    rintro ⟨r, hr, hsel⟩
    simp [hw r hr] at hsel

theorem known_ne_unknown {w : Word} (h : ∃ r ∈ opcodeRows, r.selects w = true) :
    decodeWord w ≠ .error (.unknownOpcode w) := by
  obtain ⟨r, hr, hw⟩ := h
  obtain ⟨i, hdec, -⟩ := opcodeRows_decode r hr w hw
  simp [hdec]

/-- The unknown opcodes by their fields (R106). -/
theorem unknown_iff_fields (w : Word) : decodeWord w = .error (.unknownOpcode w) ↔
    (opField w = 0x0 ∧ field w 7 0 ∉ [0xE0, 0xEE]) ∨
    (opField w = 0x8 ∧ field w 3 0 ∉ [0, 1, 2, 3, 4, 5, 6, 7, 0xE]) ∨
    (opField w = 0xE ∧ field w 7 0 ∉ [0x9E, 0xA1]) ∨
    (opField w = 0xF ∧ field w 7 0 ∉ [0x07, 0x0A, 0x15, 0x18, 0x1E, 0x29, 0x33, 0x55, 0x65]) := by
  by_cases hop : opField w ∈ [0x0, 0x8, 0xE, 0xF]
  · simp only [List.mem_cons, List.not_mem_nil, or_false] at hop
    obtain hop | hop | hop | hop := hop
    · simp [unknown_family0 hop, hop]
    · simp [unknown_family8 hop, hop]
    · simp [unknown_familyE hop, hop]
    · simp [unknown_familyF hop, hop]
  · have hknown := known_ne_unknown (known_of_other_family hop)
    simp_all

/-- A low nibble is none of the nine selectors of family 8 exactly when it is one of the seven others. -/
theorem selector8_not_mem_iff {n : Nat} (hn : n < 16) :
    n ∉ [0, 1, 2, 3, 4, 5, 6, 7, 0xE] ↔ n ∈ [0x8, 0x9, 0xA, 0xB, 0xC, 0xD, 0xF] := by
  decide +revert

/-- Settles O4: the fields, read as quotients and remainders of the word. -/
theorem unknownOpcodeSpaceIsExact : Obligations.UnknownOpcodeSpaceIsExact := by
  intro w
  have hop : opField w = w.toNat / 0x1000 := Nat.mod_eq_of_lt (by omega)
  have hkk : field w 7 0 = w.toNat % 0x100 := by simp [field]
  have hn : field w 3 0 = w.toNat % 0x10 := by simp [field]
  rw [unknown_iff_fields, hop, hkk, hn, selector8_not_mem_iff (Nat.mod_lt _ (by decide))]

/-- Settles O5: the three words are literals, and the decoder computes on them. -/
theorem workedDecodesOfTheSpec : Obligations.WorkedDecodesOfTheSpec := by
  unfold Obligations.WorkedDecodesOfTheSpec
  decide

end Sys2Proof
end

section
/-! PROOFS. What every instruction answers, one equation per instruction and outcome, and the updates that instructions
share, each with its whole effect. -/

namespace Sys2Proof.Machine

/-! ### Instructions with one outcome -/

section
variable (x y : Reg) (kk : Byte) (nnn : Imm12) (s : State)

theorem exec_cls : exec .cls s = .next (s.setFb (Vector.replicate 32 0#64)).advance := rfl

theorem exec_seReg : exec (.seReg x y) s = .next (s.skipIf (s.reg x == s.reg y)) := rfl

theorem exec_sneReg : exec (.sneReg x y) s = .next (s.skipIf (s.reg x != s.reg y)) := rfl

theorem exec_orReg : exec (.orReg x y) s = .next (s.setReg x (s.reg x ||| s.reg y)).advance := rfl

theorem exec_andReg : exec (.andReg x y) s = .next (s.setReg x (s.reg x &&& s.reg y)).advance := rfl

theorem exec_xorReg : exec (.xorReg x y) s = .next (s.setReg x (s.reg x ^^^ s.reg y)).advance := rfl

theorem exec_addReg : exec (.addReg x y) s = .next (s.writeWithFlag x (addCarry (s.reg x) (s.reg y))) := rfl

theorem exec_subReg : exec (.subReg x y) s = .next (s.writeWithFlag x (subNotBorrow (s.reg x) (s.reg y))) := rfl

theorem exec_shr : exec (.shr x) s = .next (s.writeWithFlag x (shiftRight (s.reg x))) := rfl

theorem exec_subn : exec (.subn x y) s = .next (s.writeWithFlag x (subNotBorrow (s.reg y) (s.reg x))) := rfl

theorem exec_shl : exec (.shl x) s = .next (s.writeWithFlag x (shiftLeft (s.reg x))) := rfl

theorem exec_jpV0 : exec (.jpV0 nnn) s = .next (s.jump (addrOf nnn + zext16 (s.reg 0))) := rfl

theorem exec_rnd : exec (.rnd x kk) s = .next (s.drawRandom.setReg x (s.randomByte &&& kk)).advance := rfl

theorem exec_ldVxDt : exec (.ldVxDt x) s = .next (s.setReg x s.dt).advance := rfl

theorem exec_ldVxKey : exec (.ldVxKey x) s = .next (s.setRun (.awaitingKey x)).advance := rfl

theorem exec_ldDt : exec (.ldDt x) s = .next (s.setDt (s.reg x)).advance := rfl

theorem exec_ldSt : exec (.ldSt x) s = .next (s.setSt (s.reg x)).advance := rfl

theorem exec_addI : exec (.addI x) s = .next (s.setI (s.i + zext16 (s.reg x))).advance := rfl

theorem exec_ldFont : exec (.ldFont x) s = .next (s.setI (glyphAddr (s.reg x))).advance := rfl

theorem exec_ldBcd :
    exec (.ldBcd x) s = .next (s.setMem (Memory.writeSeq s.mem s.i 0 (bcdDigits (s.reg x)))).advance := rfl

theorem exec_storeRegs :
    exec (.storeRegs x) s = .next (s.setMem (Memory.writeSeq s.mem s.i 0 (s.regRange x))).advance := rfl

theorem exec_loadRegs : exec (.loadRegs x) s = .next (s.loadRange x).advance := rfl

end

/-! ### Instructions that can raise a fatal error -/

/-- The state with a word on the stack, at entry `k`, the old `SP` (R231). -/
def State.pushed (s : State) (k : Fin 16) (w : Word) : State := { s with stack := s.stack.set k.val w, sp := k.succ }

/-- The state with `SP` at `k`, one below the old one, and every entry kept (R232). -/
def State.popped (s : State) (k : Fin 16) : State := { s with sp := k.castSucc }

/-- The instruction raises this fatal error in this state (R311, R312, R316). -/
inductive Raises (s : State) : Instr → Cause → Prop
  | overflow (nnn : Imm12) (full : s.sp.val = 16) : Raises s (.call nnn) .stackOverflow
  | underflow (empty : s.sp.val = 0) : Raises s .ret .stackUnderflow
  | skpIndex (x : Reg) (large : 15 < (s.reg x).toNat) : Raises s (.skp x) .keyIndexOutOfRange
  | sknpIndex (x : Reg) (large : 15 < (s.reg x).toNat) : Raises s (.sknp x) .keyIndexOutOfRange

section
variable {s : State}

theorem exec_of_raises {i : Instr} {cause : Cause} (h : Raises s i cause) :
    exec i s = .next (s.setRun (.halted cause)) := by
  cases h with
  | overflow nnn full => simp [exec, execCall, State.push, full, raiseFatal]
  | underflow empty => simp [exec, execRet, State.pop, empty, raiseFatal]
  | skpIndex x large => simp [exec, execSkp, keyCode_eq_none.2 large, raiseFatal]
  | sknpIndex x large => simp [exec, execSknp, keyCode_eq_none.2 large, raiseFatal]

theorem exec_call_of_room {k : Fin 16} (nnn : Imm12) (h : s.sp.val = k.val) :
    exec (.call nnn) s = .next ((s.pushed k (s.pc + 2#16)).jump (addrOf nnn)) := by
  simp [exec, execCall, State.push, State.pushed, h, Fin.succ]

theorem exec_ret_of_entry {k : Fin 16} (h : s.sp.val = k.val + 1) :
    exec .ret s = .next ((s.popped k).jump s.stack[k.val]) := by
  simp [exec, execRet, State.pop, State.popped, h, Fin.castSucc, Fin.castAdd, Fin.castLE]

theorem exec_skp_of_key {x : Reg} {k : Key} (h : (s.reg x).toNat = k.val) :
    exec (.skp x) s = .next (s.sampleKeys.skipIf (s.keySample.isPressed k)) := by
  simp [exec, execSkp, keyCode_eq_some.2 h]

theorem exec_sknp_of_key {x : Reg} {k : Key} (h : (s.reg x).toNat = k.val) :
    exec (.sknp x) s = .next (s.sampleKeys.skipIf (!s.keySample.isPressed k)) := by
  simp [exec, execSknp, keyCode_eq_some.2 h]

end

theorem stack_full_or_room (s : State) : s.sp.val = 16 ∨ ∃ k : Fin 16, s.sp.val = k.val := by
  by_cases h : s.sp.val < 16
  · exact .inr ⟨⟨_, h⟩, rfl⟩
  · exact .inl (by omega)

theorem stack_empty_or_entry (s : State) : s.sp.val = 0 ∨ ∃ k : Fin 16, s.sp.val = k.val + 1 := by
  by_cases h : s.sp.val = 0
  · exact .inl h
  · exact .inr ⟨⟨s.sp.val - 1, by omega⟩, by simp only; omega⟩

theorem large_or_key (b : Byte) : 15 < b.toNat ∨ ∃ k : Key, b.toNat = k.val := by
  by_cases h : 15 < b.toNat
  · exact .inl h
  · exact .inr ⟨⟨b.toNat, by omega⟩, rfl⟩

/-! ### The two outcomes of each, from the next state -/

section
variable {s t : State}

theorem exec_call_cases {nnn : Imm12} (h : exec (.call nnn) s = .next t) :
    (Raises s (.call nnn) .stackOverflow ∧ t = s.setRun (.halted .stackOverflow)) ∨
      ∃ k : Fin 16, s.sp.val = k.val ∧ t = (s.pushed k (s.pc + 2#16)).jump (addrOf nnn) := by
  obtain hfull | ⟨k, hk⟩ := stack_full_or_room s
  · have hraise : Raises s (.call nnn) .stackOverflow := .overflow nnn hfull
    exact .inl ⟨hraise, by simpa [exec_of_raises hraise] using h.symm⟩
  · exact .inr ⟨k, hk, by simpa [exec_call_of_room nnn hk] using h.symm⟩

theorem exec_ret_cases (h : exec .ret s = .next t) :
    (Raises s .ret .stackUnderflow ∧ t = s.setRun (.halted .stackUnderflow)) ∨
      ∃ k : Fin 16, s.sp.val = k.val + 1 ∧ t = (s.popped k).jump s.stack[k.val] := by
  obtain hempty | ⟨k, hk⟩ := stack_empty_or_entry s
  · exact .inl ⟨.underflow hempty, by simpa [exec_of_raises (.underflow hempty)] using h.symm⟩
  · exact .inr ⟨k, hk, by simpa [exec_ret_of_entry hk] using h.symm⟩

theorem exec_skp_cases {x : Reg} (h : exec (.skp x) s = .next t) :
    (Raises s (.skp x) .keyIndexOutOfRange ∧ t = s.setRun (.halted .keyIndexOutOfRange)) ∨
      ∃ k : Key, (s.reg x).toNat = k.val ∧ t = s.sampleKeys.skipIf (s.keySample.isPressed k) := by
  obtain hlarge | ⟨k, hk⟩ := large_or_key (s.reg x)
  · exact .inl ⟨.skpIndex x hlarge, by simpa [exec_of_raises (.skpIndex x hlarge)] using h.symm⟩
  · exact .inr ⟨k, hk, by simpa [exec_skp_of_key hk] using h.symm⟩

theorem exec_sknp_cases {x : Reg} (h : exec (.sknp x) s = .next t) :
    (Raises s (.sknp x) .keyIndexOutOfRange ∧ t = s.setRun (.halted .keyIndexOutOfRange)) ∨
      ∃ k : Key, (s.reg x).toNat = k.val ∧ t = s.sampleKeys.skipIf (!s.keySample.isPressed k) := by
  obtain hlarge | ⟨k, hk⟩ := large_or_key (s.reg x)
  · exact .inl ⟨.sknpIndex x hlarge, by simpa [exec_of_raises (.sknpIndex x hlarge)] using h.symm⟩
  · exact .inr ⟨k, hk, by simpa [exec_sknp_of_key hk] using h.symm⟩

end

/-! ### The frames of the updates that instructions are made of -/

section
variable (s : State)

theorem keepsAllBut_setRun (r : RunState) : KeepsAllBut [.run] s (s.setRun r) := by
  apply keepsAllBut_of_fields <;> simp

theorem keepsAllBut_setRun_advance (r : RunState) : KeepsAllBut [.run, .pc] s (s.setRun r).advance := by
  apply keepsAllBut_of_fields <;> simp

theorem keepsAllBut_setDt_advance (b : Byte) : KeepsAllBut [.delay, .pc] s (s.setDt b).advance := by
  apply keepsAllBut_of_fields <;> simp

theorem keepsAllBut_setSt_advance (b : Byte) : KeepsAllBut [.sound, .pc] s (s.setSt b).advance := by
  apply keepsAllBut_of_fields <;> simp

theorem keepsAllBut_setFb_advance (fb : Framebuffer) : KeepsAllBut [.pixels, .pc] s (s.setFb fb).advance := by
  apply keepsAllBut_of_fields <;> simp

theorem keepsAllBut_setMem_advance (m : Memory) : KeepsAllBut [.memory, .pc] s (s.setMem m).advance := by
  apply keepsAllBut_of_fields <;> simp

theorem keepsAllBut_writeWithFlag (x : Reg) (r : Byte × Bool) : KeepsAllBut [.regs, .pc] s (s.writeWithFlag x r) := by
  apply keepsAllBut_of_fields <;> simp [State.writeWithFlag]

theorem keepsAllBut_setFb_setFlag_advance (fb : Framebuffer) (c : Bool) :
    KeepsAllBut [.regs, .pixels, .pc] s ((s.setFb fb).setFlag c).advance := by
  apply keepsAllBut_of_fields <;> simp

theorem keepsAllBut_drawRandom_setReg_advance (x : Reg) (b : Byte) :
    KeepsAllBut [.regs, .pc, .random] s (s.drawRandom.setReg x b).advance := by
  apply keepsAllBut_of_fields <;> simp

theorem keepsAllBut_loadRange_advance (x : Reg) : KeepsAllBut [.regs, .pc] s (s.loadRange x).advance := by
  apply keepsAllBut_of_fields <;> simp

theorem keepsAllBut_sampleKeys_skipIf (c : Bool) : KeepsAllBut [.pc, .keypad] s (s.sampleKeys.skipIf c) := by
  apply keepsAllBut_of_fields <;> simp

theorem keepsAllBut_pushed_jump (k : Fin 16) (w target : Word) :
    KeepsAllBut [.stack, .pc] s ((s.pushed k w).jump target) := by
  apply keepsAllBut_of_fields <;> simp [State.pushed, State.reg]

theorem keepsAllBut_popped_jump (k : Fin 16) (target : Word) :
    KeepsAllBut [.stack, .pc] s ((s.popped k).jump target) := by
  apply keepsAllBut_of_fields <;> simp [State.popped, State.reg]

end

theorem KeepsAllBut.mono {ps qs : List Part} {s t : State} (h : KeepsAllBut ps s t) (hsub : ps ⊆ qs) :
    KeepsAllBut qs s t := fun p hp => h p fun hmem => hp (hsub hmem)

/-! ### The frame of every instruction -/

/-- The parts of the state that an instruction can change. -/
def writtenParts : Instr → List Part
  | .cls => [.pixels, .pc]
  | .ret | .call _ => [.stack, .pc, .run]
  | .jp _ | .jpV0 _ => [.pc]
  | .seImm .. | .sneImm .. | .seReg .. | .sneReg .. => [.pc]
  | .skp _ | .sknp _ => [.pc, .keypad, .run]
  | .ldImm .. | .addImm .. | .ldReg .. | .orReg .. | .andReg .. | .xorReg .. => [.regs, .pc]
  | .addReg .. | .subReg .. | .shr _ | .subn .. | .shl _ => [.regs, .pc]
  | .ldVxDt _ | .loadRegs _ => [.regs, .pc]
  | .rnd .. => [.regs, .pc, .random]
  | .drw .. => [.regs, .pixels, .pc]
  | .ldI _ | .addI _ | .ldFont _ => [.index, .pc]
  | .ldVxKey _ => [.run, .pc]
  | .ldDt _ => [.delay, .pc]
  | .ldSt _ => [.sound, .pc]
  | .ldBcd _ | .storeRegs _ => [.memory, .pc]

theorem Raises.frame {s : State} {i : Instr} {cause : Cause} (h : Raises s i cause) :
    ∃ t, exec i s = .next t ∧ KeepsAllBut (writtenParts i) s t :=
  ⟨_, exec_of_raises h, (keepsAllBut_setRun s _).mono (by cases h <;> simp [writtenParts])⟩

/-- Every instruction answers a next state, in which only the parts it can write differ. -/
theorem exec_frame (i : Instr) (s : State) : ∃ t, exec i s = .next t ∧ KeepsAllBut (writtenParts i) s t := by
  cases i with
  | cls => exact ⟨_, exec_cls s, keepsAllBut_setFb_advance s _⟩
  | ret =>
    obtain hempty | ⟨k, hk⟩ := stack_empty_or_entry s
    · exact (Raises.underflow hempty).frame
    · exact ⟨_, exec_ret_of_entry hk, (keepsAllBut_popped_jump s k _).mono (by simp [writtenParts])⟩
  | jp nnn => exact ⟨_, exec_jp nnn s, keepsAllBut_jump s _⟩
  | call nnn =>
    obtain hfull | ⟨k, hk⟩ := stack_full_or_room s
    · exact (Raises.overflow nnn hfull).frame
    · exact ⟨_, exec_call_of_room nnn hk, (keepsAllBut_pushed_jump s k _ _).mono (by simp [writtenParts])⟩
  | seImm x kk => exact ⟨_, exec_seImm x kk s, keepsAllBut_skipIf s _⟩
  | sneImm x kk => exact ⟨_, exec_sneImm x kk s, keepsAllBut_skipIf s _⟩
  | seReg x y => exact ⟨_, exec_seReg x y s, keepsAllBut_skipIf s _⟩
  | ldImm x kk => exact ⟨_, exec_ldImm x kk s, keepsAllBut_setReg_advance s x _⟩
  | addImm x kk => exact ⟨_, exec_addImm x kk s, keepsAllBut_setReg_advance s x _⟩
  | ldReg x y => exact ⟨_, exec_ldReg x y s, keepsAllBut_setReg_advance s x _⟩
  | orReg x y => exact ⟨_, exec_orReg x y s, keepsAllBut_setReg_advance s x _⟩
  | andReg x y => exact ⟨_, exec_andReg x y s, keepsAllBut_setReg_advance s x _⟩
  | xorReg x y => exact ⟨_, exec_xorReg x y s, keepsAllBut_setReg_advance s x _⟩
  | addReg x y => exact ⟨_, exec_addReg x y s, keepsAllBut_writeWithFlag s x _⟩
  | subReg x y => exact ⟨_, exec_subReg x y s, keepsAllBut_writeWithFlag s x _⟩
  | shr x => exact ⟨_, exec_shr x s, keepsAllBut_writeWithFlag s x _⟩
  | subn x y => exact ⟨_, exec_subn x y s, keepsAllBut_writeWithFlag s x _⟩
  | shl x => exact ⟨_, exec_shl x s, keepsAllBut_writeWithFlag s x _⟩
  | sneReg x y => exact ⟨_, exec_sneReg x y s, keepsAllBut_skipIf s _⟩
  | ldI nnn => exact ⟨_, exec_ldI nnn s, keepsAllBut_setI_advance s _⟩
  | jpV0 nnn => exact ⟨_, exec_jpV0 nnn s, keepsAllBut_jump s _⟩
  | rnd x kk => exact ⟨_, exec_rnd x kk s, keepsAllBut_drawRandom_setReg_advance s x _⟩
  | drw x y n => exact ⟨_, exec_drw x y n s, keepsAllBut_setFb_setFlag_advance s _ _⟩
  | skp x =>
    obtain hlarge | ⟨k, hk⟩ := large_or_key (s.reg x)
    · exact (Raises.skpIndex x hlarge).frame
    · exact ⟨_, exec_skp_of_key hk, (keepsAllBut_sampleKeys_skipIf s _).mono (by simp [writtenParts])⟩
  | sknp x =>
    obtain hlarge | ⟨k, hk⟩ := large_or_key (s.reg x)
    · exact (Raises.sknpIndex x hlarge).frame
    · exact ⟨_, exec_sknp_of_key hk, (keepsAllBut_sampleKeys_skipIf s _).mono (by simp [writtenParts])⟩
  | ldVxDt x => exact ⟨_, exec_ldVxDt x s, keepsAllBut_setReg_advance s x _⟩
  | ldVxKey x => exact ⟨_, exec_ldVxKey x s, keepsAllBut_setRun_advance s _⟩
  | ldDt x => exact ⟨_, exec_ldDt x s, keepsAllBut_setDt_advance s _⟩
  | ldSt x => exact ⟨_, exec_ldSt x s, keepsAllBut_setSt_advance s _⟩
  | addI x => exact ⟨_, exec_addI x s, keepsAllBut_setI_advance s _⟩
  | ldFont x => exact ⟨_, exec_ldFont x s, keepsAllBut_setI_advance s _⟩
  | ldBcd x => exact ⟨_, exec_ldBcd x s, keepsAllBut_setMem_advance s _⟩
  | storeRegs x => exact ⟨_, exec_storeRegs x s, keepsAllBut_setMem_advance s _⟩
  | loadRegs x => exact ⟨_, exec_loadRegs x s, keepsAllBut_loadRange_advance s x⟩

theorem exec_keepsAllBut {i : Instr} {s t : State} (h : exec i s = .next t) : KeepsAllBut (writtenParts i) s t := by
  obtain ⟨u, hu, hframe⟩ := exec_frame i s
  rw [h] at hu
  cases hu
  exact hframe

/-- Settles O10: the frame names the next state. -/
theorem noInstructionStopsTheMachine : Obligations.NoInstructionStopsTheMachine := by
  intro i s
  obtain ⟨t, ht, -⟩ := exec_frame i s
  exact ⟨t, ht⟩

end Sys2Proof.Machine
end

section
/-! PROOFS. How an instruction can change the run state, and which instructions write what (`60_exceptions.md` R313 to
R320, `10_state.md` R32, R37, R42, `20_memory.md` R70, `40_cycle.md` R144). -/

namespace Sys2Proof.Machine

/-! ### The run state -/

/-- An instruction keeps the run state, or is `Fx0A` and suspends the core, or raises a fatal error. -/
theorem exec_run_cases {i : Instr} {s t : State} (h : exec i s = .next t) :
    t.run = s.run ∨ (∃ x, i = .ldVxKey x ∧ t.run = .awaitingKey x) ∨
      ∃ cause, Raises s i cause ∧ t = s.setRun (.halted cause) := by
  cases i with
  | call nnn =>
    obtain hraise | ⟨k, -, rfl⟩ := exec_call_cases h
    · exact .inr (.inr ⟨_, hraise⟩)
    · exact .inl rfl
  | ret =>
    obtain hraise | ⟨k, -, rfl⟩ := exec_ret_cases h
    · exact .inr (.inr ⟨_, hraise⟩)
    · exact .inl rfl
  | skp x =>
    obtain hraise | ⟨k, -, rfl⟩ := exec_skp_cases h
    · exact .inr (.inr ⟨_, hraise⟩)
    · exact .inl rfl
  | sknp x =>
    obtain hraise | ⟨k, -, rfl⟩ := exec_sknp_cases h
    · exact .inr (.inr ⟨_, hraise⟩)
    · exact .inl rfl
  | ldVxKey x =>
    cases h
    exact .inr (.inl ⟨x, rfl, rfl⟩)
  | _ => exact .inl (exec_keepsAllBut h .run (by simp [writtenParts]))

/-- A running core that an instruction leaves halted had a fatal error raised. -/
theorem raises_of_halted {i : Instr} {s t : State} {cause : Cause} (hrun : s.run = .running)
    (h : exec i s = .next t) (hhalt : t.run = .halted cause) :
    Raises s i cause ∧ t = s.setRun (.halted cause) := by
  obtain hsame | ⟨x, -, hwait⟩ | ⟨c, hraise, rfl⟩ := exec_run_cases h
  · simp [hsame, hrun] at hhalt
  · simp [hwait] at hhalt
  · obtain rfl : c = cause := by simpa using hhalt
    exact ⟨hraise, rfl⟩

/-- Settles O12: a halt is a fatal error, which sets `run` alone, and `Raises` lists the instructions. -/
theorem fatalErrorsArePrecise : Obligations.FatalErrorsArePrecise := by
  intro i s t cause hrun h hhalt
  obtain ⟨hraise, ht⟩ := raises_of_halted hrun h hhalt
  refine ⟨ht, ?_⟩
  cases hraise with
  | overflow nnn full => exact .inl ⟨rfl, full, nnn, rfl⟩
  | underflow empty => exact .inr (.inl ⟨rfl, empty, rfl⟩)
  | skpIndex x large => exact .inr (.inr ⟨rfl, x, large, .inl rfl⟩)
  | sknpIndex x large => exact .inr (.inr ⟨rfl, x, large, .inr rfl⟩)

/-! ### The program counter -/

theorem skipIf_pc_cases (s : State) (c : Bool) :
    (s.skipIf c).pc = s.pc + 2#16 ∨ (s.skipIf c).pc = s.pc + 4#16 := by
  cases c
  · exact .inl rfl
  · exact .inr rfl

theorem addrOf_add_zext16_toNat (nnn : Imm12) (b : Byte) :
    (addrOf nnn + zext16 b).toNat = nnn.toNat + b.toNat := by
  rw [BitVec.toNat_add, addrOf_toNat, zext16_toNat]
  omega

/-- Settles O13: a fatal error sets `run` alone; else each instruction's equation says where `PC` is. -/
theorem programCounterAfterEachInstruction : Obligations.ProgramCounterAfterEachInstruction := by
  intro i s t hrun h
  refine ⟨?_, fun hnot => ?_⟩
  · rintro ⟨cause, hhalt⟩
    rw [(raises_of_halted hrun h hhalt).2, State.setRun_pc]
  cases i with
  | jp nnn =>
    cases h
    exact addrOf_toNat nnn
  | jpV0 nnn =>
    cases h
    exact addrOf_add_zext16_toNat nnn _
  | call nnn =>
    obtain ⟨-, rfl⟩ | ⟨k, -, rfl⟩ := exec_call_cases h
    · exact absurd ⟨_, rfl⟩ hnot
    · exact addrOf_toNat nnn
  | ret =>
    obtain ⟨-, rfl⟩ | ⟨k, hk, rfl⟩ := exec_ret_cases h
    · exact absurd ⟨_, rfl⟩ hnot
    · exact ⟨k, hk.symm, rfl⟩
  | skp x =>
    obtain ⟨-, rfl⟩ | ⟨k, -, rfl⟩ := exec_skp_cases h
    · exact absurd ⟨_, rfl⟩ hnot
    · exact skipIf_pc_cases _ _
  | sknp x =>
    obtain ⟨-, rfl⟩ | ⟨k, -, rfl⟩ := exec_sknp_cases h
    · exact absurd ⟨_, rfl⟩ hnot
    · exact skipIf_pc_cases _ _
  | seImm | sneImm | seReg | sneReg =>
    cases h
    exact skipIf_pc_cases _ _
  | _ =>
    cases h
    rfl

/-! ### The opcode register -/

theorem Raises.setOpc {s : State} {i : Instr} {cause : Cause} (w : Word) (h : Raises s i cause) :
    Raises (s.setOpc w) i cause := by
  cases h with
  | overflow nnn full => exact .overflow nnn full
  | underflow empty => exact .underflow empty
  | skpIndex x large => exact .skpIndex x large
  | sknpIndex x large => exact .sknpIndex x large

/-- No instruction reads `OPC`: execution commutes with a write to it. -/
theorem exec_setOpc {i : Instr} {s t : State} (w : Word) (h : exec i s = .next t) :
    exec i (s.setOpc w) = .next (t.setOpc w) := by
  cases i with
  | call nnn =>
    obtain ⟨hraise, rfl⟩ | ⟨k, hk, rfl⟩ := exec_call_cases h
    · exact exec_of_raises (hraise.setOpc w)
    · exact exec_call_of_room (s := s.setOpc w) nnn hk
  | ret =>
    obtain ⟨hraise, rfl⟩ | ⟨k, hk, rfl⟩ := exec_ret_cases h
    · exact exec_of_raises (hraise.setOpc w)
    · exact exec_ret_of_entry (s := s.setOpc w) hk
  | skp x =>
    obtain ⟨hraise, rfl⟩ | ⟨k, hk, rfl⟩ := exec_skp_cases h
    · exact exec_of_raises (hraise.setOpc w)
    · exact exec_skp_of_key (s := s.setOpc w) hk
  | sknp x =>
    obtain ⟨hraise, rfl⟩ | ⟨k, hk, rfl⟩ := exec_sknp_cases h
    · exact exec_of_raises (hraise.setOpc w)
    · exact exec_sknp_of_key (s := s.setOpc w) hk
  | _ =>
    cases h
    rfl

/-- Settles O14: `OPC` is not among the parts an instruction writes, and execution commutes with a write to it. -/
theorem noInstructionReadsTheOpcodeRegister : Obligations.NoInstructionReadsTheOpcodeRegister := by
  intro i s t w h
  exact ⟨exec_keepsAllBut h .opcode (by cases i <;> simp [writtenParts]), exec_setOpc w h⟩

/-! ### Memory -/

/-- An instruction leaves memory as it is, or is `Fx33` or `Fx55` and writes its bytes from `EA(0)` on. -/
theorem exec_mem_cases {i : Instr} {s t : State} (h : exec i s = .next t) :
    t.mem = s.mem ∨
    (∃ x, i = .ldBcd x ∧ t.mem = Memory.writeSeq s.mem s.i 0 (bcdDigits (s.reg x))) ∨
    (∃ x, i = .storeRegs x ∧ t.mem = Memory.writeSeq s.mem s.i 0 (s.regRange x)) := by
  cases i with
  | ldBcd x =>
    cases h
    exact .inr (.inl ⟨x, rfl, rfl⟩)
  | storeRegs x =>
    cases h
    exact .inr (.inr ⟨x, rfl, rfl⟩)
  | call nnn =>
    obtain ⟨-, rfl⟩ | ⟨k, -, rfl⟩ := exec_call_cases h <;> exact .inl rfl
  | ret =>
    obtain ⟨-, rfl⟩ | ⟨k, -, rfl⟩ := exec_ret_cases h <;> exact .inl rfl
  | skp x =>
    obtain ⟨-, rfl⟩ | ⟨k, -, rfl⟩ := exec_skp_cases h <;> exact .inl rfl
  | sknp x =>
    obtain ⟨-, rfl⟩ | ⟨k, -, rfl⟩ := exec_sknp_cases h <;> exact .inl rfl
  | _ =>
    cases h
    exact .inl rfl

/-- A byte that a sequence of writes changes is at one of its addresses. -/
theorem Memory.exists_ea_of_read_writeSeq_ne {m : Memory} {base : Word} {bs : List Byte} {a : Nat}
    (h : Memory.read (Memory.writeSeq m base 0 bs) a ≠ Memory.read m a) : ∃ k < bs.length, a = ea base k := by
  by_contra hnone
  push Not at hnone
  exact h (Memory.read_writeSeq_other m base 0 bs fun j hj => by simpa using hnone j hj)

/-- Settles O16: both instructions write one sequence, of three bytes or of `x + 1`. -/
theorem onlyTwoInstructionsStoreToMemory : Obligations.OnlyTwoInstructionsStoreToMemory := by
  intro i s t a h hne
  obtain hmem | ⟨x, rfl, hmem⟩ | ⟨x, rfl, hmem⟩ := exec_mem_cases h <;> rw [hmem] at hne
  · exact absurd rfl hne
  · exact .inl ⟨⟨x, rfl⟩, Memory.exists_ea_of_read_writeSeq_ne hne⟩
  · obtain ⟨k, hk, ha⟩ := Memory.exists_ea_of_read_writeSeq_ne hne
    rw [regRange_length] at hk
    exact .inr ⟨x, rfl, k, Nat.lt_succ_iff.1 hk, ha⟩

/-! ### The stack -/

theorem State.stack_pushed_of_ne {s : State} {k j : Fin 16} (w : Word) (h : j ≠ k) :
    (s.pushed k w).stack[j.val] = s.stack[j.val] :=
  Vector.getElem_set_ne k.isLt j.isLt fun hval => h (Fin.ext hval.symm)

theorem stack_mem_writtenParts {i : Instr} (h : Part.stack ∈ writtenParts i) : i = .ret ∨ ∃ nnn, i = .call nnn := by
  cases i <;> simp_all [writtenParts]

/-- Settles O17: a return moves `SP` alone, and a call writes the entry at the old `SP`. -/
theorem onlyCallAndReturnTouchTheStack : Obligations.OnlyCallAndReturnTouchTheStack := by
  intro i s t h
  by_cases hmem : Part.stack ∈ writtenParts i
  · refine ⟨fun _ => stack_mem_writtenParts hmem, fun j hne => ?_⟩
    obtain rfl | ⟨nnn, rfl⟩ := stack_mem_writtenParts hmem
    · obtain ⟨-, rfl⟩ | ⟨k, -, rfl⟩ := exec_ret_cases h <;> exact absurd rfl hne
    · obtain ⟨-, rfl⟩ | ⟨k, hk, rfl⟩ := exec_call_cases h
      · exact absurd rfl hne
      · refine ⟨⟨nnn, rfl⟩, ?_⟩
        rw [hk]
        exact congrArg Fin.val (by_contra fun hjk => hne (State.stack_pushed_of_ne _ hjk))
  · obtain ⟨hsp, hstack⟩ := exec_keepsAllBut h .stack hmem
    exact ⟨fun hne => absurd hsp hne, fun j hne => absurd (hstack j) hne⟩

/-! ### General registers -/

theorem reg_writeWithFlag_of_ne {s : State} {x r : Reg} (c : Byte × Bool) (hx : r ≠ x) (hf : r ≠ VF) :
    (s.writeWithFlag x c).reg r = s.reg r := by
  rw [reg_writeWithFlag, if_neg hf, if_neg hx]

theorem eq_of_setReg_advance_ne {s : State} {x r : Reg} {b : Byte} (h : (s.setReg x b).advance.reg r ≠ s.reg r) :
    r = x := by_contra fun hr => h (keepsRegsBut_setReg_advance s x b r hr)

theorem eq_of_writeWithFlag_ne {s : State} {x r : Reg} {c : Byte × Bool}
    (h : (s.writeWithFlag x c).reg r ≠ s.reg r) : r = x ∨ r = VF := by
  by_contra hr
  obtain ⟨hx, hf⟩ := not_or.1 hr
  exact h (reg_writeWithFlag_of_ne c hx hf)

/-- Settles O19: every writer of registers is one of four updates, and the others keep the register file. -/
theorem registersWrittenByEachInstruction : Obligations.RegistersWrittenByEachInstruction := by
  intro i s t r h hne
  cases i with
  | ldImm | addImm | ldReg | orReg | andReg | xorReg | ldVxDt =>
    cases h
    exact eq_of_setReg_advance_ne hne
  | rnd x kk =>
    cases h
    exact eq_of_setReg_advance_ne (s := s.drawRandom) hne
  | addReg | subReg | shr | subn | shl =>
    cases h
    exact eq_of_writeWithFlag_ne hne
  | drw x y n =>
    rw [exec_drw] at h
    cases h
    by_contra hr
    exact hne (by simp [hr])
  | loadRegs x =>
    cases h
    by_contra hr
    exact hne (by rw [State.reg_advance, State.reg_loadRange, if_neg (by simpa using hr)])
  | _ => exact hne (exec_keepsAllBut h .regs (by simp [writtenParts]) r)

end Sys2Proof.Machine
end

section
/-! PROOFS. What a step does: each outcome said once, then what cycles do, which operations are refused, what only some
operations can change, and the invariant of the machine. -/

namespace Sys2Proof.Machine

/-! ### Every way a step answers a next state -/

/-- The next states of a step: one constructor for each operation and outcome (R10, R140 to R146, R287, R292, R351,
R354 to R357). -/
inductive StepNext (s : State) : State → Prop
  | reset (op : s.sched.head? = some .reset) : StepNext s s.dropOp.resetCore
  | tick (op : s.sched.head? = some .tickTimers) : StepNext s (tickTimers s.dropOp)
  | poll (op : s.sched.head? = some .keyPoll) : StepNext s (keyPoll s.dropOp)
  | load (font : Font) (image : List Byte) (unloaded : s.loaded = false) : StepNext s (s.dropOp.loadImage font image)
  | tooLarge (unloaded : s.loaded = false) : StepNext s s.dropOp
  | idle (loaded : s.loaded = true) (notRunning : s.run ≠ .running) : StepNext s s.dropOp
  | outOfRange (loaded : s.loaded = true) (running : s.run = .running) (above : 0xFFE < s.pc.toNat) :
      StepNext s (s.dropOp.setRun (.halted .pcOutOfRange))
  | unknown (fetches : s.Fetches) : StepNext s (s.dropOp.setOpc s.fetchWord).advance
  | instr (t : State) (fetches : s.Fetches) (i : Instr) (decoded : decodeWord s.fetchWord = .ok i)
      (executed : exec i (s.dropOp.setOpc s.fetchWord) = .next t) : StepNext s t

theorem stepNext_of_cycle {s t : State} (hop : s.cyclesNext) (h : cycle s.dropOp = .next t) : StepNext s t := by
  obtain ⟨-, hc⟩ | ⟨hl, hr, hc⟩ | ⟨hl, hr, hp, hc⟩ | ⟨hl, hr, hp, i, hd, hc⟩ | ⟨hl, hr, hp, -, hc⟩ :=
    cycle_cases s.dropOp <;> rw [hc] at h
  · cases h
  · cases h
    exact .idle hl hr
  · cases h
    exact .outOfRange hl hr hp
  · exact .instr t ⟨hl, hr, hop, hp⟩ i hd h
  · cases h
    exact .unknown ⟨hl, hr, hop, hp⟩

theorem stepNext_of_step {s t : State} (h : step s = .next t) : StepNext s t := by
  obtain ⟨hs, hstep⟩ | ⟨op, ops, hs, hstep⟩ := step_cases s <;> rw [hstep] at h
  · exact stepNext_of_cycle (.inl hs) h
  · have hhead : s.sched.head? = some op := by rw [hs, List.head?_cons]
    cases op with
    | cycle => exact stepNext_of_cycle (.inr ⟨ops, hs⟩) h
    | tickTimers =>
      cases h
      exact .tick hhead
    | keyPoll =>
      cases h
      exact .poll hhead
    | reset =>
      cases h
      exact .reset hhead
    | load font image =>
      obtain ⟨-, hload⟩ | ⟨hl, -, hload⟩ | ⟨hl, -, hload⟩ := load_cases font image s.dropOp <;>
        rw [perform, hload] at h <;> cases h
      · exact .load font image hl
      · exact .tooLarge hl

/-! ### The frames of the driver's operations -/

section
variable (s : State)

theorem keepsAllBut_dropOp : KeepsAllBut [.schedule] s s.dropOp := by
  apply keepsAllBut_of_fields <;> simp

theorem keepsAllBut_sampleKeys : KeepsAllBut [.keypad] s s.sampleKeys := by
  apply keepsAllBut_of_fields <;> simp

theorem keepsAllBut_tickTimers : KeepsAllBut [.delay, .sound] s (tickTimers s) := by
  apply keepsAllBut_of_fields <;> simp [tickTimers]

/-- The state in which a key poll ends the wait for `Vx`: a sample taken, the code written, the core running (R292). -/
def State.resumed (x : Reg) (k : Key) : State := (s.sampleKeys.setReg x (BitVec.ofNat 8 k.val)).setRun .running

theorem keepsAllBut_resumed (x : Reg) (k : Key) : KeepsAllBut [.regs, .run, .keypad] s (s.resumed x k) := by
  apply keepsAllBut_of_fields <;> simp [State.resumed]

theorem keepsRegsBut_resumed (x : Reg) (k : Key) : KeepsRegsBut x s (s.resumed x k) := by
  intro r hr
  rw [State.resumed, State.reg_setRun, State.reg_setReg, if_neg hr, State.reg_sampleKeys]

theorem reg_resumed (x : Reg) (k : Key) : ((s.resumed x k).reg x).toNat = k.val := by
  rw [State.resumed, State.reg_setRun, State.reg_setReg, if_pos rfl, BitVec.toNat_ofNat]
  omega

end

section
variable {s : State}

theorem keyPoll_of_not_waiting (h : ∀ x, s.run ≠ .awaitingKey x) : keyPoll s = s := by
  obtain ⟨-, hpoll⟩ | ⟨x, hx, -⟩ | ⟨x, k, hx, -⟩ := keyPoll_cases s
  · exact hpoll
  · exact absurd hx (h x)
  · exact absurd hx (h x)

theorem keyPoll_of_no_key {x : Reg} (hrun : s.run = .awaitingKey x) (hkey : s.keySample.anyPressedCode = none) :
    keyPoll s = s.sampleKeys := by simp [keyPoll, hrun, hkey]

theorem keyPoll_of_key {x : Reg} {k : Key} (hrun : s.run = .awaitingKey x)
    (hkey : s.keySample.anyPressedCode = some k) : keyPoll s = s.resumed x k := by
  simp [keyPoll, hrun, hkey, State.resumed]

theorem keepsAllBut_keyPoll (s : State) : KeepsAllBut [.regs, .run, .keypad] s (keyPoll s) := by
  obtain ⟨-, hpoll⟩ | ⟨x, -, -, hpoll⟩ | ⟨x, k, -, -, hpoll⟩ := keyPoll_cases s <;> rw [hpoll]
  · exact fun p _ => p.same_refl s
  · exact (keepsAllBut_sampleKeys s).mono (by simp)
  · exact keepsAllBut_resumed s x k

end

/-! ### One cycle -/

section
variable {s : State}

theorem step_of_cyclesNext (h : s.cyclesNext) : step s = cycle s.dropOp := by
  obtain hs | ⟨ops, hs⟩ := h <;> simp [step, State.nextOp, hs, perform]

theorem State.Fetches.cycleWithStatus_eq (h : s.Fetches) :
    cycleWithStatus s = dispatchWord s.fetchWord (s.setOpc s.fetchWord) := by
  simp [cycleWithStatus, fetchExecute, h.loaded, h.running, h.inRange]

theorem State.Fetches.step_eq (h : s.Fetches) :
    step s = mapNext Prod.snd (dispatchWord s.fetchWord (s.dropOp.setOpc s.fetchWord)) := by
  rw [step_of_cyclesNext h.next]
  simp [cycle, cycleWithStatus, fetchExecute, h.loaded, h.running, h.inRange]

theorem dispatchWord_of_ok {w : Word} {i : Instr} (h : decodeWord w = .ok i) (s : State) :
    dispatchWord w s = withStatus (exec i s) := by rw [dispatchWord, h]

theorem dispatchWord_of_unknown {w : Word} (h : ∀ i, decodeWord w ≠ .ok i) (s : State) :
    dispatchWord w s = .next (.unknownOpcode w, s.advance) := by
  cases hd : decodeWord w with
  | ok i => exact absurd hd (h i)
  | error e => rw [dispatchWord, hd]

theorem statusAfter_of_halted {cause : Cause} (h : s.run = .halted cause) : statusAfter s = .fatal cause := by
  rw [statusAfter, h]

theorem statusAfter_of_not_halted (h : ¬s.isHalted) : statusAfter s = .ok := by
  cases hr : s.run with
  | halted cause => exact absurd ⟨cause, hr⟩ h
  | running => rw [statusAfter, hr]
  | awaitingKey x => rw [statusAfter, hr]

end

/-- Settles O6: the fetched word is the two bytes, and it dispatches to the instruction it decodes to. -/
theorem stepRunsTheDecodedInstruction : Obligations.StepRunsTheDecodedInstruction := by
  rintro s i hi lo hf rfl rfl (hdec : decodeWord s.fetchWord = .ok i)
  refine ⟨?_, fun t ht => ?_⟩
  · rw [hf.step_eq, dispatchWord_of_ok hdec, mapNext_snd_withStatus]
    rfl
  · have hcycle : cycleWithStatus s = .next (statusAfter t, t) := by
      rw [hf.cycleWithStatus_eq, dispatchWord_of_ok hdec]
      exact congrArg withStatus ht
    refine ⟨fun cause hhalt => ?_, fun hnot => ?_⟩
    · rw [hcycle, statusAfter_of_halted hhalt]
    · rw [hcycle, statusAfter_of_not_halted hnot]

theorem keepsAllBut_noOp (s : State) (w : Word) :
    KeepsAllBut [.pc, .opcode, .schedule] s (s.dropOp.setOpc w).advance := by
  apply keepsAllBut_of_fields <;> simp

/-- Settles O7: the word is recorded in `OPC` and dispatches to `advance()`. -/
theorem unknownOpcodeIsReportedNoOp : Obligations.UnknownOpcodeIsReportedNoOp := by
  rintro s hi lo hf rfl rfl (hdec : ∀ i, decodeWord s.fetchWord ≠ .ok i)
  refine ⟨(s.dropOp.setOpc s.fetchWord).advance, ?_, rfl, toNat_wordOfBytes _ _, hf.running, keepsAllBut_noOp s _,
    (s.setOpc s.fetchWord).advance, ?_⟩
  · rw [hf.step_eq, dispatchWord_of_unknown hdec, mapNext_next]
  · rw [hf.cycleWithStatus_eq, dispatchWord_of_unknown hdec]
    rfl

theorem cycleWithStatus_of_outOfRange {s : State} (hl : s.loaded = true) (hr : s.run = .running)
    (hp : 0xFFE < s.pc.toNat) :
    cycleWithStatus s = .next (.fatal .pcOutOfRange, s.setRun (.halted .pcOutOfRange)) := by
  have hfetch : fetchable s.pc = false := by simpa [fetchable] using hp
  simp [cycleWithStatus, fetchExecute, hl, hr, hfetch, raiseFatal, withStatus, statusAfter]

/-- Settles O8: the fetch raises the fatal error, which sets `run` alone. -/
theorem fetchAboveTheTopOfMemoryHalts : Obligations.FetchAboveTheTopOfMemoryHalts := by
  intro s hl hr hop hp
  refine ⟨s.dropOp.setRun (.halted .pcOutOfRange), ?_, rfl, rfl, ?_, _, cycleWithStatus_of_outOfRange hl hr hp⟩
  · rw [step_of_cyclesNext hop, cycle, cycleWithStatus_of_outOfRange (s := s.dropOp) hl hr hp, mapNext_next]
  · exact ((keepsAllBut_dropOp s).trans (keepsAllBut_setRun s.dropOp _)).mono (by simp)

theorem cycleWithStatus_of_waiting {s : State} {x : Reg} (hl : s.loaded = true) (hr : s.run = .awaitingKey x) :
    cycleWithStatus s = .next (.waiting, s) := by simp [cycleWithStatus, hl, hr]

/-- Settles O9: a cycle of a suspended core is the identity, here on the state without the operation. -/
theorem suspendedCycleChangesNothing : Obligations.SuspendedCycleChangesNothing := by
  intro s x hl hr
  refine ⟨cycleWithStatus_of_waiting hl hr, fun hop => ?_⟩
  rw [step_of_cyclesNext hop, cycle, cycleWithStatus_of_waiting (s := s.dropOp) hl hr, mapNext_next]
  rfl

/-! ### Refused steps -/

theorem cycle_refused_or_next (s : State) :
    (s.loaded = false ∧ cycle s = .refused .cycleBeforeLoad) ∨ (s.loaded = true ∧ ∃ t, cycle s = .next t) := by
  obtain hc | ⟨hl, -, hc⟩ | ⟨hl, -, -, hc⟩ | ⟨hl, -, -, i, -, hc⟩ | ⟨hl, -, -, -, hc⟩ := cycle_cases s
  · exact .inl hc
  · exact .inr ⟨hl, _, hc⟩
  · exact .inr ⟨hl, _, hc⟩
  · rw [hc]
    exact .inr ⟨hl, noInstructionStopsTheMachine i _⟩
  · exact .inr ⟨hl, _, hc⟩

/-- A cycle is refused before a load, a load after one, and every other step answers a next state. -/
theorem step_refused_or_next (s : State) :
    (s.loaded = false ∧ s.cyclesNext ∧ step s = .refused .cycleBeforeLoad) ∨
    (s.loaded = true ∧ (∃ font image ops, s.sched = .load font image :: ops) ∧ step s = .refused .loadTwice) ∨
    ((s.cyclesNext → s.loaded = true) ∧ ((∃ font image ops, s.sched = .load font image :: ops) → s.loaded = false) ∧
      ∃ t, step s = .next t) := by
  by_cases hop : s.cyclesNext
  · have hnoload : ¬∃ font image ops, s.sched = .load font image :: ops := by
      rintro ⟨font, image, ops, hs⟩
      obtain hnil | ⟨ops', hcons⟩ := hop
      · simp [hs] at hnil
      · simp [hs] at hcons
    rw [step_of_cyclesNext hop]
    obtain ⟨hl, hc⟩ | ⟨hl, hc⟩ := cycle_refused_or_next s.dropOp
    · exact .inl ⟨hl, hop, hc⟩
    · exact .inr (.inr ⟨fun _ => hl, fun h => absurd h hnoload, hc⟩)
  · obtain ⟨hs, -⟩ | ⟨op, ops, hs, hstep⟩ := step_cases s
    · exact absurd (.inl hs) hop
    · rw [hstep, hs]
      cases op with
      | cycle => exact absurd (.inr ⟨ops, hs⟩) hop
      | tickTimers => exact .inr (.inr ⟨fun h => absurd h hop, by simp, _, rfl⟩)
      | keyPoll => exact .inr (.inr ⟨fun h => absurd h hop, by simp, _, rfl⟩)
      | reset => exact .inr (.inr ⟨fun h => absurd h hop, by simp, _, rfl⟩)
      | load font image =>
        obtain ⟨hl, hload⟩ | ⟨hl, -, hload⟩ | ⟨hl, -, hload⟩ := load_cases font image s.dropOp
        · exact .inr (.inl ⟨hl, ⟨font, image, ops, rfl⟩, hload⟩)
        · exact .inr (.inr ⟨fun h => absurd h hop, fun _ => hl, _, hload⟩)
        · exact .inr (.inr ⟨fun h => absurd h hop, fun _ => hl, _, hload⟩)

/-- Settles O11: the outcomes of a step exclude each other, and none is a fault. -/
theorem stepIsRefusedOnlyOutOfOrder : Obligations.StepIsRefusedOnlyOutOfOrder := by
  intro s
  obtain ⟨hl, hop, hstep⟩ | ⟨hl, hload, hstep⟩ | ⟨hcycle, hload, t, hstep⟩ := step_refused_or_next s
  · simp [hstep, hl, hop, eq_comm]
  · simp [hstep, hl, hload, eq_comm]
  · refine ⟨fun r => iff_of_false (by simp [hstep]) ?_, by simp [hstep]⟩
    rintro (⟨hl, hop, -⟩ | ⟨hl, -, hsched⟩)
    · simp [hcycle hop] at hl
    · simp [hload hsched] at hl

end Sys2Proof.Machine
end

section
/-! PROOFS. What only some operations can change, the halt and the wait, reset, and the invariant of the machine
(`10_state.md` R50, `45_timers_input.md` R292, R293, `60_exceptions.md` R311 to R323, `70_reset_and_hazards.md` R351,
R357). -/

namespace Sys2Proof.Machine

/-! ### Writers of pixels and of timers -/

theorem pixels_mem_writtenParts {i : Instr} (h : Part.pixels ∈ writtenParts i) :
    i = .cls ∨ ∃ x y n, i = .drw x y n := by
  cases i <;> simp_all [writtenParts]

theorem delay_mem_writtenParts {i : Instr} (h : Part.delay ∈ writtenParts i) : ∃ x, i = .ldDt x := by
  cases i <;> simp_all [writtenParts]

theorem sound_mem_writtenParts {i : Instr} (h : Part.sound ∈ writtenParts i) : ∃ x, i = .ldSt x := by
  cases i <;> simp_all [writtenParts]

/-- Settles O15: an instruction that changes a pixel has pixels among its parts, and a poll or a tick has not. -/
theorem onlyClearAndDrawChangePixels : Obligations.OnlyClearAndDrawChangePixels := by
  intro s t h hne
  cases stepNext_of_step h with
  | reset op => exact .inl op
  | poll => exact absurd (keepsAllBut_keyPoll s.dropOp .pixels (by simp)) hne
  | instr _ hf i hd hx =>
    refine .inr ⟨hf, i, hd, pixels_mem_writtenParts (by_contra fun hmem => ?_)⟩
    exact hne (exec_keepsAllBut hx .pixels hmem)
  | tick | load | tooLarge | idle | outOfRange | unknown => exact absurd (fun _ _ => rfl) hne

/-- Settles O18: an instruction that changes a timer has that timer among its parts, and no other. -/
theorem onlyTicksAndTimerInstructionsWriteTimers : Obligations.OnlyTicksAndTimerInstructionsWriteTimers := by
  intro s t h hne
  cases stepNext_of_step h with
  | reset op => exact .inr (.inl op)
  | tick op => exact .inl op
  | poll =>
    have hdt := keepsAllBut_keyPoll s.dropOp .delay (by simp)
    have hst := keepsAllBut_keyPoll s.dropOp .sound (by simp)
    exact absurd hne (by simpa using ⟨hdt, hst⟩)
  | instr _ hf i hd hx =>
    refine .inr (.inr ⟨hf, ?_⟩)
    by_cases hdelay : Part.delay ∈ writtenParts i
    · obtain ⟨x, rfl⟩ := delay_mem_writtenParts hdelay
      exact ⟨x, .inl ⟨hd, exec_keepsAllBut hx .sound (by simp [writtenParts])⟩⟩
    · have hdt : t.dt = s.dt := exec_keepsAllBut hx .delay hdelay
      by_cases hsound : Part.sound ∈ writtenParts i
      · obtain ⟨x, rfl⟩ := sound_mem_writtenParts hsound
        exact ⟨x, .inr ⟨hd, hdt⟩⟩
      · have hst : t.st = s.st := exec_keepsAllBut hx .sound hsound
        exact absurd hne (by simp [hdt, hst])
  | load | tooLarge | idle | outOfRange | unknown => exact absurd hne (by simp [State.loadImage])

/-! ### The halt and the wait -/

theorem cycleWithStatus_of_halted {s : State} {cause : Cause} (hl : s.loaded = true) (hr : s.run = .halted cause) :
    cycleWithStatus s = .next (.halted, s) := by simp [cycleWithStatus, hl, hr]

theorem keepsAllBut_dropOp_tick (s : State) : KeepsAllBut [.delay, .sound, .schedule] s (tickTimers s.dropOp) :=
  ((keepsAllBut_dropOp s).trans (keepsAllBut_tickTimers s.dropOp)).mono (by simp)

/-- Settles O20: of the steps of a halted, loaded core, only the reset leaves the halt and only the tick moves a
timer. -/
theorem onlyResetLeavesTheHalt : Obligations.OnlyResetLeavesTheHalt := by
  intro s cause hl hr
  have hdrop : KeepsAllBut [.delay, .sound, .schedule] s s.dropOp := (keepsAllBut_dropOp s).mono (by simp)
  refine ⟨cycleWithStatus_of_halted hl hr, fun t h hreset => ?_⟩
  cases stepNext_of_step h with
  | reset op => exact absurd op hreset
  | tick op => exact ⟨hr, keepsAllBut_dropOp_tick s, fun hne => absurd op hne⟩
  | poll =>
    rw [keyPoll_of_not_waiting (s := s.dropOp) (by simp [hr])]
    exact ⟨hr, hdrop, fun _ => ⟨rfl, rfl⟩⟩
  | idle => exact ⟨hr, hdrop, fun _ => ⟨rfl, rfl⟩⟩
  | load _ _ hunloaded | tooLarge hunloaded => simp [hl] at hunloaded
  | outOfRange _ hrun => simp [hr] at hrun
  | unknown hf | instr _ hf => exact absurd hf.running (by simp [hr])

/-- Settles O21: of the steps of a suspended, loaded core, only the reset and a poll that finds a key resume it. -/
theorem onlyKeyPollOrResetEndsTheWait : Obligations.OnlyKeyPollOrResetEndsTheWait := by
  intro s t x hl hr h
  have hdrop := keepsAllBut_dropOp s
  cases stepNext_of_step h with
  | reset op => exact .inr (.inl op)
  | tick => exact .inl ⟨hr, (keepsAllBut_dropOp_tick s).mono (by simp)⟩
  | poll op =>
    cases hk : s.dropOp.keySample.anyPressedCode with
    | none =>
      rw [keyPoll_of_no_key (s := s.dropOp) hr hk]
      exact .inl ⟨hr, (hdrop.trans (keepsAllBut_sampleKeys _)).mono (by simp)⟩
    | some k =>
      rw [keyPoll_of_key (s := s.dropOp) hr hk]
      exact .inr (.inr ⟨op, k, hk, rfl, reg_resumed _ x k, keepsRegsBut_resumed _ x k,
        (hdrop.trans (keepsAllBut_resumed _ x k)).mono (by simp)⟩)
  | idle => exact .inl ⟨hr, hdrop.mono (by simp)⟩
  | load _ _ hunloaded | tooLarge hunloaded => simp [hl] at hunloaded
  | outOfRange _ hrun => simp [hr] at hrun
  | unknown hf | instr _ hf => exact absurd hf.running (by simp [hr])

/-! ### Reset -/

theorem hasResetValues_resetCore (s : State) : s.resetCore.HasResetValues where
  regs r := by simp [State.resetCore, State.reset, State.reg]
  index := rfl
  pc := rfl
  sp := rfl
  stack k := by simp [State.resetCore, State.reset]
  delay := rfl
  sound := rfl
  pixels := Framebuffer.pixel_blank
  memory _ := rfl
  opcode := rfl
  run := rfl
  loaded := rfl

theorem keepsAllBut_resetCore (s : State) : KeepsAllBut
    [.regs, .index, .pc, .stack, .delay, .sound, .pixels, .memory, .opcode, .run, .loaded] s s.resetCore := by
  intro p hp
  cases p with
  | random | keypad | schedule => rfl
  | _ => simp at hp

/-- Settles O22: the state after construction is the reset of itself, and its core is not loaded. -/
theorem resetGivesEveryElementItsValue : Obligations.ResetGivesEveryElementItsValue :=
  ⟨hasResetValues_resetCore State.reset,
    fun s => ⟨s.resetCore, rfl, hasResetValues_resetCore s, keepsAllBut_resetCore s, rfl⟩⟩

/-! ### The invariant -/

section
variable {s t : State}

theorem State.Inv.of_running (hm : Memory.wf t.mem = true) (hr : t.run = .running)
    (hreset : t.loaded = false → t = t.resetCore) : t.Inv where
  memory := hm
  unloaded := hreset
  overflow := by simp [hr]
  underflow := by simp [hr]
  outOfRange := by simp [hr]
  keyIndex := by simp [hr]
  waiting := by simp [hr]

/-- A running core that is loaded meets the invariant when its memory is canonical. -/
theorem State.Inv.of_loaded (hm : Memory.wf t.mem = true) (hr : t.run = .running) (hl : t.loaded = true) : t.Inv :=
  .of_running hm hr (by simp [hl])

theorem inv_resetCore (s : State) : s.resetCore.Inv := .of_running rfl rfl fun _ => rfl

/-- A core that is not loaded is running (R357). -/
theorem State.Inv.running_of_unloaded (h : s.Inv) (hl : s.loaded = false) : s.run = .running := by
  rw [h.unloaded hl]
  rfl

/-- The invariant does not speak of the timers and of what the outside world supplies, but for a core in its reset
state. -/
theorem State.Inv.of_same_core (h : s.Inv) (hv : t.v = s.v) (hpc : t.pc = s.pc) (hsp : t.sp = s.sp)
    (hm : t.mem = s.mem) (ho : t.opc = s.opc) (hr : t.run = s.run)
    (hreset : t.loaded = false → t = t.resetCore) : t.Inv where
  memory := hm ▸ h.memory
  unloaded := hreset
  overflow hrun := by rw [hsp, ho]; exact h.overflow (hr ▸ hrun)
  underflow hrun := by rw [hsp, ho]; exact h.underflow (hr ▸ hrun)
  outOfRange hrun := by rw [hpc]; exact h.outOfRange (hr ▸ hrun)
  keyIndex hrun := by simpa only [ho, State.reg, hv] using h.keyIndex (hr ▸ hrun)
  waiting x hrun := by rw [ho]; exact h.waiting x (hr ▸ hrun)

/-- A halted core meets the invariant when what the cause says holds of it. -/
theorem State.Inv.of_halted {cause : Cause} (hm : Memory.wf t.mem = true) (hl : t.loaded = true)
    (hr : t.run = .halted cause)
    (ho : cause = .stackOverflow → t.sp.val = 16 ∧ ∃ nnn, decodeWord t.opc = .ok (.call nnn))
    (hu : cause = .stackUnderflow → t.sp.val = 0 ∧ decodeWord t.opc = .ok .ret)
    (hp : cause = .pcOutOfRange → 0xFFE < t.pc.toNat)
    (hk : cause = .keyIndexOutOfRange →
      ∃ x, (decodeWord t.opc = .ok (.skp x) ∨ decodeWord t.opc = .ok (.sknp x)) ∧ 15 < (t.reg x).toNat) : t.Inv where
  memory := hm
  unloaded := by simp [hl]
  overflow hrun := ho (by simpa [hr] using hrun)
  underflow hrun := hu (by simpa [hr] using hrun)
  outOfRange hrun := hp (by simpa [hr] using hrun)
  keyIndex hrun := hk (by simpa [hr] using hrun)
  waiting := by simp [hr]

theorem State.Inv.of_waiting {x : Reg} (hm : Memory.wf t.mem = true) (hl : t.loaded = true)
    (hr : t.run = .awaitingKey x) (hd : decodeWord t.opc = .ok (.ldVxKey x)) : t.Inv where
  memory := hm
  unloaded := by simp [hl]
  overflow := by simp [hr]
  underflow := by simp [hr]
  outOfRange := by simp [hr]
  keyIndex := by simp [hr]
  waiting y hrun := by
    obtain rfl : x = y := by simpa [hr] using hrun
    exact hd

/-! ### Every operation keeps the invariant -/

theorem State.Inv.dropOp (h : s.Inv) : s.dropOp.Inv :=
  h.of_same_core rfl rfl rfl rfl rfl rfl fun hl => congrArg State.dropOp (h.unloaded hl)

theorem State.Inv.sampleKeys (h : s.Inv) : s.sampleKeys.Inv :=
  h.of_same_core rfl rfl rfl rfl rfl rfl fun hl => congrArg State.sampleKeys (h.unloaded hl)

/-- The timers of a core in its reset state are 0 and stay 0. -/
theorem State.Inv.tickTimers (h : s.Inv) : (tickTimers s).Inv := by
  refine h.of_same_core rfl rfl rfl rfl rfl rfl fun hl => ?_
  rw [h.unloaded hl]
  rfl

theorem State.Inv.keyPoll (h : s.Inv) : (keyPoll s).Inv := by
  obtain ⟨-, hpoll⟩ | ⟨x, -, -, hpoll⟩ | ⟨x, k, hrun, -, hpoll⟩ := keyPoll_cases s <;> rw [hpoll]
  · exact h
  · exact h.sampleKeys
  · refine .of_running h.memory rfl fun hl => ?_
    simp [h.running_of_unloaded hl] at hrun

theorem exec_keeps_wf {i : Instr} (hm : Memory.wf s.mem = true) (h : exec i s = .next t) :
    Memory.wf t.mem = true := by
  obtain hmem | ⟨x, -, hmem⟩ | ⟨x, -, hmem⟩ := exec_mem_cases h <;> rw [hmem]
  · exact hm
  · exact Memory.writeSeq_wf _ _ _ hm
  · exact Memory.writeSeq_wf _ _ _ hm

/-- The halt of a fatal error shows its cause: `OPC` holds the instruction that raised it (R142). -/
theorem inv_of_raises {i : Instr} {cause : Cause} (hm : Memory.wf s.mem = true) (hl : s.loaded = true)
    (hd : decodeWord s.opc = .ok i) (h : Raises s i cause) : (s.setRun (.halted cause)).Inv := by
  cases h with
  | overflow nnn full => exact .of_halted hm hl rfl (fun _ => ⟨full, nnn, hd⟩) nofun nofun nofun
  | underflow empty => exact .of_halted hm hl rfl nofun (fun _ => ⟨empty, hd⟩) nofun nofun
  | skpIndex x large => exact .of_halted hm hl rfl nofun nofun nofun fun _ => ⟨x, .inl hd, large⟩
  | sknpIndex x large => exact .of_halted hm hl rfl nofun nofun nofun fun _ => ⟨x, .inr hd, large⟩

/-- An instruction that `OPC` holds, executed by a loaded, running core. -/
theorem inv_of_exec {i : Instr} (hm : Memory.wf s.mem = true) (hl : s.loaded = true) (hr : s.run = .running)
    (hd : decodeWord s.opc = .ok i) (h : exec i s = .next t) : t.Inv := by
  have hm' : Memory.wf t.mem = true := exec_keeps_wf hm h
  have hl' : t.loaded = true := (exec_keepsAllBut h .loaded (by cases i <;> simp [writtenParts])).trans hl
  obtain hrun | ⟨x, rfl, hrun⟩ | ⟨cause, hraise, rfl⟩ := exec_run_cases h
  · exact .of_loaded hm' (hrun.trans hr) hl'
  · cases h
    exact .of_waiting hm' hl' hrun hd
  · exact inv_of_raises hm hl hd hraise

end

/-- Settles O23: the state after reset is the reset of itself. -/
theorem resetMeetsTheInvariant : Obligations.ResetMeetsTheInvariant := inv_resetCore State.reset

/-- Settles O24: each next state of a step, by the lemma of its operation. -/
theorem everyStepKeepsTheInvariant : Obligations.EveryStepKeepsTheInvariant := by
  intro s t hinv h
  cases stepNext_of_step h with
  | reset => exact inv_resetCore s.dropOp
  | tick => exact hinv.dropOp.tickTimers
  | poll => exact hinv.dropOp.keyPoll
  | load font image hl => exact .of_loaded (loadImage_wf font image hinv.memory) (hinv.running_of_unloaded hl) rfl
  | tooLarge | idle => exact hinv.dropOp
  | outOfRange hl _ hp => exact .of_halted hinv.memory hl rfl nofun nofun (fun _ => hp) nofun
  | unknown hf => exact .of_loaded hinv.memory hf.running hf.loaded
  | instr _ hf i hd hx => exact inv_of_exec (s := s.dropOp.setOpc s.fetchWord) hinv.memory hf.loaded hf.running hd hx

/-! ### Runs of a loaded core -/

/-- The driver only cycles, ticks and polls (R83). -/
def State.OnlyRuns (s : State) : Prop := ∀ op ∈ s.sched, op = .cycle ∨ op = .tickTimers ∨ op = .keyPoll

theorem exec_keeps_loaded_sched {i : Instr} {s t : State} (h : exec i s = .next t) :
    t.loaded = s.loaded ∧ t.sched = s.sched :=
  ⟨exec_keepsAllBut h .loaded (by cases i <;> simp [writtenParts]),
    exec_keepsAllBut h .schedule (by cases i <;> simp [writtenParts])⟩

theorem StepNext.loaded_sched {s t : State} (hl : s.loaded = true) (hs : s.OnlyRuns) (h : StepNext s t) :
    t.loaded = s.loaded ∧ t.sched = s.sched.tail := by
  cases h with
  | reset op => simpa using hs _ (List.mem_of_head? op)
  | poll => exact ⟨keepsAllBut_keyPoll s.dropOp .loaded (by simp), keepsAllBut_keyPoll s.dropOp .schedule (by simp)⟩
  | load _ _ hunloaded | tooLarge hunloaded => simp [hl] at hunloaded
  | instr _ _ i _ hx => exact exec_keeps_loaded_sched hx
  | tick | idle | outOfRange | unknown => exact ⟨rfl, rfl⟩

theorem step_of_onlyRuns {s : State} (hl : s.loaded = true) (hs : s.OnlyRuns) :
    ∃ t, step s = .next t ∧ t.loaded = true ∧ t.OnlyRuns := by
  obtain ⟨hunloaded, -⟩ | ⟨-, ⟨font, image, ops, hload⟩, -⟩ | ⟨-, -, t, hstep⟩ := step_refused_or_next s
  · simp [hl] at hunloaded
  · simpa using hs (.load font image) (by simp [hload])
  · obtain ⟨hloaded, hsched⟩ := (stepNext_of_step hstep).loaded_sched hl hs
    refine ⟨t, hstep, hloaded.trans hl, fun op hop => hs op ?_⟩
    rw [hsched] at hop
    exact List.mem_of_mem_tail hop

theorem run_succ_of_step (M : Host.Core) (k : Nat) {s t : M.State} (h : M.step s = .next t) :
    M.run (k + 1) s = M.run k t := by
  rw [Host.Core.run, h]

/-- Settles O25: by induction on the number of steps. -/
theorem loadedCoreNeverStops : Obligations.LoadedCoreNeverStops := by
  intro k
  induction k with
  | zero => exact fun s hl _ => ⟨s, rfl, hl⟩
  | succ k ih =>
    intro s hl hs
    obtain ⟨t, hstep, hlt, hst⟩ := step_of_onlyRuns hl hs
    obtain ⟨u, hrun, hlu⟩ := ih t hlt hst
    exact ⟨u, (run_succ_of_step core k hstep).trans hrun, hlu⟩

end Sys2Proof.Machine
end

section
/-! PROOFS. The ALU instructions that combine bits, write a flag or draw a byte (`41_alu.md` R171, R172, R176 to
R185). -/

namespace Sys2Proof.Machine

/-! ### Bit by bit, with no flag -/

/-- Settles O28: each instruction is the one update of `Vx`, with the bitwise operation of the words. -/
theorem bitwiseOperationsWriteNoFlag : Obligations.BitwiseOperationsWriteNoFlag := by
  refine ⟨fun x y => ⟨?_, ?_, ?_⟩, fun s x y => ⟨_, exec_orReg x y s, ?_⟩, fun s x y => ⟨_, exec_andReg x y s, ?_⟩,
    fun s x y => ⟨_, exec_xorReg x y s, ?_⟩⟩
  · exact decodeWord_of_ofNibbles (decodeWord_ofNibbles_orReg x y)
  · exact decodeWord_of_ofNibbles (decodeWord_ofNibbles_andReg x y)
  · exact decodeWord_of_ofNibbles (decodeWord_ofNibbles_xorReg x y)
  · obtain ⟨hx, hrest⟩ := setReg_advance_effect s x (s.reg x ||| s.reg y)
    exact ⟨fun b => by rw [hx, BitVec.getLsbD_or], hrest⟩
  · obtain ⟨hx, hrest⟩ := setReg_advance_effect s x (s.reg x &&& s.reg y)
    exact ⟨fun b => by rw [hx, BitVec.getLsbD_and], hrest⟩
  · obtain ⟨hx, hrest⟩ := setReg_advance_effect s x (s.reg x ^^^ s.reg y)
    exact ⟨fun b => by rw [hx, BitVec.getLsbD_xor], hrest⟩

/-! ### A result and a flag -/

section
variable (s : State) {x : Reg} (r : Byte × Bool)

theorem reg_writeWithFlag_result (hx : x ≠ VF) : (s.writeWithFlag x r).reg x = r.1 := by
  rw [reg_writeWithFlag, if_neg hx, if_pos rfl]

theorem reg_writeWithFlag_flag : (s.writeWithFlag x r).reg VF = if r.2 then 1#8 else 0#8 := by
  rw [reg_writeWithFlag, if_pos rfl]

theorem toNat_writeWithFlag_flag : ((s.writeWithFlag x r).reg VF).toNat = if r.2 then 1 else 0 := by
  rw [reg_writeWithFlag_flag]
  split <;> rfl

/-- What the update leaves as it was: every register but `Vx` and `VF`, and every part but `PC`, which is 2 on. -/
theorem writeWithFlag_rest :
    (∀ q, q ≠ x → q ≠ VF → (s.writeWithFlag x r).reg q = s.reg q) ∧ (s.writeWithFlag x r).pc = s.pc + 2#16 ∧
      KeepsAllBut [.regs, .pc] s (s.writeWithFlag x r) :=
  ⟨fun _ hx hf => reg_writeWithFlag_of_ne r hx hf, writeWithFlag_pc s x r, keepsAllBut_writeWithFlag s x r⟩

end

/-- Settles O29: the flag, written last, is whether the exact sum exceeds 255. -/
theorem addSetsCarry : Obligations.AddSetsCarry := by
  refine ⟨fun x y => decodeWord_of_ofNibbles (decodeWord_ofNibbles_addReg x y),
    fun s x y => ⟨_, exec_addReg x y s, ?_⟩⟩
  obtain ⟨hsum, hcarry⟩ := addCarry_spec (s.reg x) (s.reg y)
  refine ⟨fun hx => ?_, fun hover => ?_, fun hfits => ?_, writeWithFlag_rest s _⟩
  · rw [reg_writeWithFlag_result s _ hx, hsum]
  · rw [reg_writeWithFlag_flag, if_pos (hcarry.2 hover)]
  · rw [reg_writeWithFlag_flag, if_neg (mt hcarry.1 (by omega))]

/-- The effect of a subtraction, for either order of the operands `a` and `b`. -/
theorem writeWithFlag_subNotBorrow (s : State) (x : Reg) (a b : Byte) :
    (x ≠ VF → ((s.writeWithFlag x (subNotBorrow a b)).reg x).toNat = (a.toNat + 256 - b.toNat) % 256) ∧
    (b.toNat ≤ a.toNat → (s.writeWithFlag x (subNotBorrow a b)).reg VF = 1#8) ∧
    (a.toNat < b.toNat → (s.writeWithFlag x (subNotBorrow a b)).reg VF = 0#8) := by
  obtain ⟨hdiff, hborrow⟩ := subNotBorrow_spec a b
  refine ⟨fun hx => ?_, fun hle => ?_, fun hlt => ?_⟩
  · rw [reg_writeWithFlag_result s _ hx, hdiff]
  · rw [reg_writeWithFlag_flag, if_pos (hborrow.2 hle)]
  · rw [reg_writeWithFlag_flag, if_neg (mt hborrow.1 (by omega))]

/-- Settles O30: both instructions are one subtraction, with the operands in either order. -/
theorem subtractSetsNotBorrow : Obligations.SubtractSetsNotBorrow := by
  refine ⟨fun x y => ⟨?_, ?_⟩, fun s x y => ⟨_, exec_subReg x y s, ?_⟩, fun s x y => ⟨_, exec_subn x y s, ?_⟩⟩
  · exact decodeWord_of_ofNibbles (decodeWord_ofNibbles_subReg x y)
  · exact decodeWord_of_ofNibbles (decodeWord_ofNibbles_subn x y)
  · obtain ⟨hresult, hone, hzero⟩ := writeWithFlag_subNotBorrow s x (s.reg x) (s.reg y)
    exact ⟨hresult, hone, hzero, writeWithFlag_rest s _⟩
  · obtain ⟨hresult, hone, hzero⟩ := writeWithFlag_subNotBorrow s x (s.reg y) (s.reg x)
    exact ⟨hresult, hone, hzero, writeWithFlag_rest s _⟩

/-- Settles O31: the flag is the old bit 0 or bit 7 of `Vx`, as a remainder or a quotient of its value. -/
theorem shiftsSetTheBitShiftedOut : Obligations.ShiftsSetTheBitShiftedOut := by
  refine ⟨fun x y hy => ⟨?_, ?_⟩, fun s x => ⟨_, exec_shr x s, ?_⟩, fun s x => ⟨_, exec_shl x s, ?_⟩⟩
  · exact decodeWord_of_ofNibbles (decodeWord_ofNibbles_shr x hy)
  · exact decodeWord_of_ofNibbles (decodeWord_ofNibbles_shl x hy)
  · obtain ⟨hhalf, hbit⟩ := shiftRight_spec (s.reg x)
    refine ⟨fun hx => ?_, ?_, writeWithFlag_rest s _⟩
    · rw [reg_writeWithFlag_result s _ hx, hhalf]
    · rw [toNat_writeWithFlag_flag]
      simp only [hbit]
      split <;> omega
  · obtain ⟨hdouble, hbit⟩ := shiftLeft_spec (s.reg x)
    refine ⟨fun hx => ?_, ?_, writeWithFlag_rest s _⟩
    · rw [reg_writeWithFlag_result s _ hx, hdouble]
    · rw [toNat_writeWithFlag_flag]
      simp only [hbit]
      split <;> omega

/-! ### A drawn byte -/

theorem randomByte_of_given {s : State} {r : Byte} {rest : List Byte} (h : s.random.given = r :: rest) :
    s.randomByte = r := by rw [State.randomByte, Port.value, h]

theorem randomByte_of_none {s : State} (h : s.random.given = []) :
    s.randomByte = Config.freeRandomByte s.random.taken := by rw [State.randomByte, Port.value, h]

/-- Settles O32: `Vx` is the port's next value masked, and the port has that value taken off. -/
theorem randomByteIsMasked : Obligations.RandomByteIsMasked := by
  refine ⟨decodeWord_ofXkk_rnd, fun s x kk => ⟨_, exec_rnd x kk s, ?_⟩⟩
  obtain ⟨hx, hregs, hpc, -⟩ := setReg_advance_effect s.drawRandom x (s.randomByte &&& kk)
  refine ⟨fun r rest hgiven => ⟨?_, fun b => ?_⟩, fun hnone => ⟨?_, fun b => ?_⟩, rfl, fun hzero => ?_, hregs, hpc,
    keepsAllBut_drawRandom_setReg_advance s x _⟩
  · simp [hgiven]
  · rw [hx, randomByte_of_given hgiven, BitVec.getLsbD_and]
  · simp [hnone]
  · rw [hx, randomByte_of_none hnone, BitVec.getLsbD_and]
  · rw [hx, hzero, BitVec.and_zero]

end Sys2Proof.Machine
end

section
/-! PROOFS. The index register and memory (`42_index_memory.md` R202 to R210, `20_memory.md` R73 to R81). -/

namespace Sys2Proof.Machine

/-! ### Fx1E and Fx29 -/

/-- Settles O34: both instructions write `I` alone, with a sum of words or with the glyph's address. -/
theorem addToIndexAndPointAtGlyph : Obligations.AddToIndexAndPointAtGlyph := by
  refine ⟨fun x => ⟨?_, ?_⟩, fun s x => ⟨_, exec_addI x s, ?_⟩, fun s x => ⟨_, exec_ldFont x s, ?_⟩⟩
  · exact decodeWord_of_ofXkk (decodeWord_ofXkk_addI x)
  · exact decodeWord_of_ofXkk (decodeWord_ofXkk_ldFont x)
  · obtain ⟨hi, hrest⟩ := setI_advance_effect s (s.i + zext16 (s.reg x))
    exact ⟨by rw [hi, BitVec.toNat_add, zext16_toNat], hrest⟩
  · obtain ⟨hi, hrest⟩ := setI_advance_effect s (glyphAddr (s.reg x))
    exact ⟨by rw [hi, glyphAddr_toNat], hrest⟩

/-! ### Bytes written from `EA(0)` on -/

theorem Memory.read_writeSeq_ea {m : Memory} (base : Word) {bs : List Byte} (hm : Memory.wf m = true)
    (hlen : bs.length ≤ 4096) {j : Nat} (hj : j < bs.length) :
    Memory.read (Memory.writeSeq m base 0 bs) (ea base j) = bs[j] := by
  have hbyte := Memory.read_writeSeq_at base 0 bs hm (by omega) j hj
  rwa [Nat.zero_add] at hbyte

@[simp] theorem bcdDigits_length (b : Byte) : (bcdDigits b).length = 3 := rfl

theorem read_bcd {m : Memory} (base : Word) (b : Byte) (hm : Memory.wf m = true) :
    (Memory.read (Memory.writeSeq m base 0 (bcdDigits b)) (ea base 0)).toNat = b.toNat / 100 ∧
    (Memory.read (Memory.writeSeq m base 0 (bcdDigits b)) (ea base 1)).toNat = b.toNat / 10 % 10 ∧
    (Memory.read (Memory.writeSeq m base 0 (bcdDigits b)) (ea base 2)).toNat = b.toNat % 10 := by
  have hread {j : Nat} (hj : j < (bcdDigits b).length) := Memory.read_writeSeq_ea base hm (by simp) hj
  have := b.isLt
  rw [hread (j := 0) (by simp), hread (j := 1) (by simp), hread (j := 2) (by simp)]
  simp only [bcdDigits, List.getElem_cons_zero, List.getElem_cons_succ, BitVec.toNat_ofNat]
  omega

/-- Settles O35: the three digits are read back where they were written. -/
theorem bcdStoresThreeDigits : Obligations.BcdStoresThreeDigits := by
  refine ⟨fun x => ?_, fun s x hm => ⟨_, exec_ldBcd x s, ?_⟩⟩
  · exact decodeWord_of_ofXkk (decodeWord_ofXkk_ldBcd x)
  obtain ⟨hundreds, htens, hunits⟩ := read_bcd s.i (s.reg x) hm
  refine ⟨hundreds, htens, hunits, fun a h0 h1 h2 => ?_, rfl, keepsAllBut_setMem_advance s _⟩
  by_contra hne
  obtain ⟨k, hk, rfl⟩ := Memory.exists_ea_of_read_writeSeq_ne hne
  rw [bcdDigits_length] at hk
  interval_cases k <;> contradiction

/-! ### Fx55 and Fx65 -/

section
variable {s : State} {x : Reg}

/-- Memory after `Fx55`. -/
def State.storedMem (s : State) (x : Reg) : Memory := Memory.writeSeq s.mem s.i 0 (s.regRange x)

theorem read_storedMem (hm : Memory.wf s.mem = true) {k : Reg} (hk : k ≤ x) :
    Memory.read (s.storedMem x) (ea s.i k.val) = s.reg k := by
  have hkx : k.val < (s.regRange x).length := by
    rw [regRange_length]
    exact Nat.lt_succ_of_le hk
  rw [State.storedMem, Memory.read_writeSeq_ea s.i hm (by rw [regRange_length]; omega) hkx, regRange_get]

theorem read_storedMem_other {a : Nat} (h : ∀ k : Reg, k ≤ x → a ≠ ea s.i k.val) :
    Memory.read (s.storedMem x) a = Memory.read s.mem a := by
  by_contra hne
  obtain ⟨k, hk, ha⟩ := Memory.exists_ea_of_read_writeSeq_ne hne
  rw [regRange_length] at hk
  exact h ⟨k, by omega⟩ (Nat.lt_succ_iff.1 hk) ha

end

/-- Settles O36: byte `k` of the register range is `Vk`, and the writes touch only their own addresses. -/
theorem storeRegistersWritesTheRange : Obligations.StoreRegistersWritesTheRange := by
  refine ⟨fun x => ?_, fun s x hm => ⟨_, exec_storeRegs x s, fun k hk => read_storedMem hm hk,
    fun a ha => read_storedMem_other ha, rfl, keepsAllBut_setMem_advance s _⟩⟩
  exact decodeWord_of_ofXkk (decodeWord_ofXkk_storeRegs x)

theorem reg_loadRange_of_le (s : State) {x k : Reg} (h : k ≤ x) :
    (s.loadRange x).advance.reg k = Memory.read s.mem (ea s.i k.val) := by
  rw [State.reg_advance, State.reg_loadRange, if_pos (Fin.le_def.1 h)]

theorem reg_loadRange_of_lt (s : State) {x k : Reg} (h : x < k) : (s.loadRange x).advance.reg k = s.reg k := by
  rw [State.reg_advance, State.reg_loadRange, if_neg (Nat.not_le.2 h)]

/-- Settles O37: the update of the register file reads each byte of the range from its address. -/
theorem loadRegistersReadsTheRange : Obligations.LoadRegistersReadsTheRange := by
  refine ⟨fun x => ?_, fun s x => ⟨_, exec_loadRegs x s, fun k hk => reg_loadRange_of_le s hk,
    fun k hk => reg_loadRange_of_lt s hk, rfl, keepsAllBut_loadRange_advance s x⟩⟩
  exact decodeWord_of_ofXkk (decodeWord_ofXkk_loadRegs x)

/-- Settles O38: `Fx65` reads from the addresses that `Fx55` wrote, since neither moves `I`. -/
theorem storeThenLoadRestoresRegisters : Obligations.StoreThenLoadRestoresRegisters := by
  intro s t u x v hm hstore hload
  rw [exec_storeRegs] at hstore
  cases hstore
  rw [exec_loadRegs] at hload
  cases hload
  refine ⟨fun k hk => ?_, rfl, rfl⟩
  rw [reg_loadRange_of_le _ hk]
  exact read_storedMem hm hk

theorem ea_of_le_top {w : Word} {k : Nat} (hw : w.toNat ≤ 0xFFE) (hk : k ≤ 1) : ea w k = w.toNat + k :=
  Memory.ea_of_lt (by omega)

/-- Settles O40: the fetch reads at `EA(0)` and `EA(1)`, which do not wrap. -/
theorem fetchSeesStoredBytes : Obligations.FetchSeesStoredBytes := by
  intro s t x hm hstore hx hi htop
  rw [exec_storeRegs] at hstore
  cases hstore
  rw [← hi] at htop
  have h0 : Memory.read (s.storedMem x) s.i.toNat = s.reg 0 := by
    rw [← read_storedMem hm (Fin.zero_le x)]
    exact congrArg _ (ea_of_le_top (k := 0) htop (by decide)).symm
  have h1 : Memory.read (s.storedMem x) (s.i.toNat + 1) = s.reg 1 := by
    rw [← read_storedMem hm (k := 1) hx]
    exact congrArg _ (ea_of_le_top (k := 1) htop (by decide)).symm
  rw [State.fetchWord, toNat_wordOfBytes, State.advance_pc, State.setMem_pc, ← hi, State.advance_mem,
    State.setMem_mem, ← State.storedMem, h0, h1]

/-! ### Memory as storage -/

namespace Memory

/-- The first byte listed reads as itself, which is not 0. -/
theorem read_head_ne_zero {lo a : Nat} {b : Byte} {m : Memory} (h : wfFrom lo ((a, b) :: m) = true) :
    read ((a, b) :: m) a ≠ 0#8 := by
  rw [read_cons, if_pos rfl]
  exact (wfFrom_cons.1 h).2.2.1

/-- The first address listed is below another memory's only when the reads differ there. -/
theorem le_of_read_eq {lo a c : Nat} {b d : Byte} {m n : Memory} (hn : wfFrom lo ((c, d) :: n) = true)
    (hm : wfFrom lo ((a, b) :: m) = true) (h : read ((a, b) :: m) a = read ((c, d) :: n) a) : c ≤ a := by
  by_contra hlt
  obtain ⟨-, hc, hd, hn⟩ := wfFrom_cons.1 hn
  have hbelow : wfFrom c ((c, d) :: n) = true := wfFrom_cons.2 ⟨le_rfl, hc, hd, hn⟩
  exact read_head_ne_zero hm (h.trans (read_below hbelow (Nat.lt_of_not_le hlt)))

/-- Canonical memories that read the same are the same list. -/
theorem eq_of_read_eq {lo : Nat} {m n : Memory} (hm : wfFrom lo m = true) (hn : wfFrom lo n = true)
    (h : ∀ a, read m a = read n a) : m = n := by
  induction m generalizing lo n with
  | nil =>
    cases n with
    | nil => rfl
    | cons q n => exact absurd (h q.1).symm (read_head_ne_zero hn)
  | cons p m ih =>
    obtain ⟨a, b⟩ := p
    cases n with
    | nil => exact absurd (h a) (read_head_ne_zero hm)
    | cons q n =>
      obtain ⟨c, d⟩ := q
      obtain rfl : a = c := le_antisymm (le_of_read_eq hm hn (h c).symm) (le_of_read_eq hn hm (h a))
      obtain rfl : b = d := by simpa using h a
      have hm' : wfFrom (a + 1) m = true := (wfFrom_cons.1 hm).2.2.2
      have hn' : wfFrom (a + 1) n = true := (wfFrom_cons.1 hn).2.2.2
      refine congrArg _ (ih hm' hn' fun k => ?_)
      by_cases hk : a = k
      · rw [read_below hm' (by omega), read_below hn' (by omega)]
      · simpa [hk] using h k

end Memory

/-- Settles O39: a byte reads back, a write is local, and the canonical list is determined by its reads. -/
theorem memoryBehavesAsPlainStorage : Obligations.MemoryBehavesAsPlainStorage :=
  ⟨fun _ a b hm => Memory.read_write_same a b hm, fun m _ _ b h => Memory.read_write_other m b h,
    fun _ _ hm hn h => Memory.eq_of_read_eq hm hn h⟩

end Sys2Proof.Machine
end

section
/-! PROOFS. Calls, returns, the indexed jump and the skips on two registers (`43_control_flow.md` R231 to R241). -/

namespace Sys2Proof.Machine

theorem exec_halts_of_raises {s : State} {i : Instr} {cause : Cause} (h : Raises s i cause) :
    ∃ t, exec i s = .next t ∧ t.run = .halted cause ∧ KeepsAllBut [.run] s t :=
  ⟨_, exec_of_raises h, rfl, keepsAllBut_setRun s _⟩

/-- Settles O42: the jump's target is a sum of words that does not overflow. -/
theorem indexedJumpAddsV0 : Obligations.IndexedJumpAddsV0 :=
  ⟨decodeWord_ofNnn_jpV0, fun s nnn => ⟨_, exec_jpV0 nnn s, addrOf_add_zext16_toNat nnn _, keepsAllBut_jump s _⟩⟩

theorem State.stack_pushed_same (s : State) (k : Fin 16) (w : Word) : (s.pushed k w).stack[k.val] = w :=
  Vector.getElem_set_self k.isLt

/-- Settles O43: a push writes the entry at the old `SP`, and a full stack raises the fatal error. -/
theorem callPushesTheSuccessor : Obligations.CallPushesTheSuccessor := by
  refine ⟨decodeWord_ofNnn_call, fun s nnn k hk => ⟨_, exec_call_of_room nnn hk, ?_⟩,
    fun s nnn hfull => exec_halts_of_raises (.overflow nnn hfull)⟩
  refine ⟨s.stack_pushed_same k _, ?_, addrOf_toNat nnn, fun j hj => State.stack_pushed_of_ne _ hj,
    keepsAllBut_pushed_jump s k _ _⟩
  rw [hk]
  rfl

/-- Settles O44: a pop moves `SP` alone, and an empty stack raises the fatal error. -/
theorem returnPopsTheStack : Obligations.ReturnPopsTheStack := by
  refine ⟨fun x hx => ?_, fun s k hk => ⟨_, exec_ret_of_entry hk, rfl, rfl, fun _ => rfl,
    keepsAllBut_popped_jump s k _⟩, fun s hempty => exec_halts_of_raises (.underflow hempty)⟩
  exact decodeWord_of_ofNibbles_low (decodeWord_ofNibbles_ret hx)

/-- Settles O45: the return pops the entry that the call pushed. -/
theorem returnComesBackAfterCall : Obligations.ReturnComesBackAfterCall := by
  intro s t nnn hroom hcall
  obtain ⟨hraise, -⟩ | ⟨k, hk, rfl⟩ := exec_call_cases hcall
  · cases hraise with
    | overflow _ full => omega
  · refine ⟨_, exec_ret_of_entry (k := k) rfl, s.stack_pushed_same k _, Fin.ext hk.symm, ?_, fun _ => rfl⟩
    exact ((keepsAllBut_pushed_jump s k _ _).trans (keepsAllBut_popped_jump _ k _)).mono (by simp)

/-- Settles O47: both instructions are `skip_if`, with the test for equality of registers and with its negation. -/
theorem skipsOnRegisters : Obligations.SkipsOnRegisters := by
  refine ⟨fun x y n hn => ⟨?_, ?_⟩, fun s x y => ⟨_, exec_seReg x y s, skipIf_effect s beq_iff_eq⟩,
    fun s x y => ⟨_, exec_sneReg x y s, ?_⟩⟩
  · exact decodeWord_ofNibbles_seReg x y hn
  · exact decodeWord_ofNibbles_sneReg x y hn
  · obtain ⟨hskip, hadvance, hframe⟩ := skipIf_effect s (bne_iff_ne (a := s.reg x) (b := s.reg y))
    exact ⟨hskip, fun heq => hadvance (not_not_intro heq), hframe⟩

end Sys2Proof.Machine
end

section
/-! PROOFS. Clearing the framebuffer, and what a draw and a second draw of the same sprite do to it
(`44_display.md` R261 to R265). -/

namespace Sys2Proof.Machine

/-- Settles O48: the framebuffer becomes the blank one, whatever it was. -/
theorem clearZeroesEveryPixel : Obligations.ClearZeroesEveryPixel := by
  refine ⟨fun x hx => ?_, fun s => ⟨_, exec_cls s, Framebuffer.pixel_blank, rfl, keepsAllBut_setFb_advance s _,
    _, exec_cls _, rfl⟩⟩
  exact decodeWord_of_ofNibbles_low (decodeWord_ofNibbles_cls hx)

/-! ### A draw, pixel by pixel -/

section
variable {s : State} {x y : Reg} {n : Height} {r : Fin 32} {c : Fin 64}

theorem mem_drawnPoints_iff : (r, c) ∈ s.drawnPoints x y n ↔ SpriteCovers s x y n r c := by
  simp only [State.drawnPoints, mem_spritePoints, readSeq_length, readSeq_get, Nat.zero_add, spriteRow, spriteCol,
    Fin.ext_iff, Fin.val_ofNat]
  constructor
  · rintro ⟨i, hi, hr, j, hj, hbit, hc⟩
    exact ⟨i, hi, j, hj, hbit, hr, hc⟩
  · rintro ⟨i, hi, j, hj, hbit, hr, hc⟩
    exact ⟨i, hi, hr, j, hj, hbit, hc⟩

theorem pixel_drawn_of_covers (h : SpriteCovers s x y n r c) :
    Framebuffer.pixel (s.drawn x y n).fb r c = !Framebuffer.pixel s.fb r c := by
  rw [pixel_drawn, decide_eq_true (mem_drawnPoints_iff.2 h), Bool.xor_true]

theorem pixel_drawn_of_not_covers (h : ¬SpriteCovers s x y n r c) :
    Framebuffer.pixel (s.drawn x y n).fb r c = Framebuffer.pixel s.fb r c := by
  rw [pixel_drawn, decide_eq_false (mt mem_drawnPoints_iff.1 h), Bool.xor_false]

theorem drawn_coll_iff_covers :
    (s.drawn x y n).coll = true ↔ ∃ r c, SpriteCovers s x y n r c ∧ Framebuffer.pixel s.fb r c = true := by
  simp only [drawn_coll_iff_mem, Prod.exists, mem_drawnPoints_iff]

end

theorem keepsRegsBut_setFb_setFlag_advance (s : State) (fb : Framebuffer) (c : Bool) :
    KeepsRegsBut VF s ((s.setFb fb).setFlag c).advance := by
  intro r hr
  rw [State.reg_advance, State.reg_setFlag, if_neg hr, State.reg_setFb]

/-- Settles O49: the toggled pixels are those the sprite covers, and the flag is whether one of them was 1. -/
theorem drawTogglesTheSpriteAndReportsCollision : Obligations.DrawTogglesTheSpriteAndReportsCollision := by
  refine ⟨fun x y n => decodeWord_ofNibbles_drw x y n, fun s x y n => ⟨_, exec_drw x y n s,
    fun r c => pixel_drawn_of_covers, fun r c => pixel_drawn_of_not_covers, fun hhit => ?_, fun hmiss => ?_,
    keepsRegsBut_setFb_setFlag_advance s _ _, rfl, keepsAllBut_setFb_setFlag_advance s _ _⟩⟩
  · rw [State.reg_advance, reg_setFlag_eq_one_iff]
    exact drawn_coll_iff_covers.2 hhit
  · rw [State.reg_advance, reg_setFlag_eq_zero_iff, ← Bool.not_eq_true, drawn_coll_iff_covers]
    rintro ⟨r, c, hcovers, hpixel⟩
    simp [hmiss r c hcovers] at hpixel

/-! ### A second draw of the same sprite -/

section
variable (s : State) {x y : Reg} (n : Height)

/-- The state that `Dxyn` leaves. -/
def State.afterDraw (s : State) (x y : Reg) (n : Height) : State :=
  ((s.setFb (s.drawn x y n).fb).setFlag (s.drawn x y n).coll).advance

theorem covers_afterDraw (hx : x ≠ VF) (hy : y ≠ VF) (r : Fin 32) (c : Fin 64) :
    SpriteCovers (s.afterDraw x y n) x y n r c ↔ SpriteCovers s x y n r c := by
  have hregx : (s.afterDraw x y n).reg x = s.reg x := keepsRegsBut_setFb_setFlag_advance s _ _ x hx
  have hregy : (s.afterDraw x y n).reg y = s.reg y := keepsRegsBut_setFb_setFlag_advance s _ _ y hy
  rw [SpriteCovers, hregx, hregy]
  rfl

theorem fb_drawn_twice (hx : x ≠ VF) (hy : y ≠ VF) : ((s.afterDraw x y n).drawn x y n).fb = s.fb := by
  apply Framebuffer.ext_pixel
  intro r c
  have hfirst : (s.afterDraw x y n).fb = (s.drawn x y n).fb := rfl
  by_cases h : SpriteCovers s x y n r c
  · rw [pixel_drawn_of_covers ((covers_afterDraw s n hx hy r c).2 h), hfirst, pixel_drawn_of_covers h, Bool.not_not]
  · rw [pixel_drawn_of_not_covers (mt (covers_afterDraw s n hx hy r c).1 h), hfirst, pixel_drawn_of_not_covers h]

/-- The second draw collides where the first one set a pixel. -/
theorem coll_drawn_twice (hx : x ≠ VF) (hy : y ≠ VF) : ((s.afterDraw x y n).drawn x y n).coll = true ↔
    ∃ r c, SpriteCovers s x y n r c ∧ Framebuffer.pixel s.fb r c = false := by
  rw [drawn_coll_iff_covers]
  refine exists_congr fun r => exists_congr fun c => ?_
  rw [covers_afterDraw s n hx hy]
  refine and_congr_right fun h => ?_
  have hfirst : (s.afterDraw x y n).fb = (s.drawn x y n).fb := rfl
  rw [hfirst, pixel_drawn_of_covers h, Bool.not_eq_true']

end

/-- Settles O51: the second draw covers the same pixels, and toggles them back. -/
theorem drawingTwiceRestoresTheFramebuffer : Obligations.DrawingTwiceRestoresTheFramebuffer := by
  intro s t u x y n hx hy hfirst hsecond
  obtain rfl : s.afterDraw x y n = t := Host.Outcome.next.inj ((exec_drw x y n s).symm.trans hfirst)
  obtain rfl : (s.afterDraw x y n).afterDraw x y n = u := Host.Outcome.next.inj ((exec_drw x y n _).symm.trans hsecond)
  refine ⟨fb_drawn_twice s n hx hy, ?_⟩
  rw [State.afterDraw, State.reg_advance, reg_setFlag_eq_one_iff]
  exact coll_drawn_twice s n hx hy

end Sys2Proof.Machine
end

section
/-! PROOFS. The timers, the keypad, and the loads that are rejected (`45_timers_input.md` R280 to R292,
`70_reset_and_hazards.md` R354, R356). -/

namespace Sys2Proof.Machine

/-! ### Timers -/

theorem soundActive_iff (s : State) : s.soundActive = true ↔ s.st ≠ 0#8 := by
  rw [State.soundActive, decide_eq_true_iff, Nat.pos_iff_ne_zero]
  exact not_congr ⟨fun h => BitVec.eq_of_toNat_eq h, fun h => by rw [h]; rfl⟩

/-- Settles O54: each instruction writes one register or timer with the value of the other. -/
theorem timerInstructionsMoveTheTimers : Obligations.TimerInstructionsMoveTheTimers := by
  refine ⟨fun x => ⟨?_, ?_, ?_⟩, fun s x => ⟨_, exec_ldVxDt x s, setReg_advance_effect s x s.dt⟩,
    fun s x => ⟨_, exec_ldDt x s, rfl, rfl, keepsAllBut_setDt_advance s _⟩,
    fun s x => ⟨_, exec_ldSt x s, rfl, soundActive_iff _, rfl, keepsAllBut_setSt_advance s _⟩⟩
  · exact decodeWord_of_ofXkk (decodeWord_ofXkk_ldVxDt x)
  · exact decodeWord_of_ofXkk (decodeWord_ofXkk_ldDt x)
  · exact decodeWord_of_ofXkk (decodeWord_ofXkk_ldSt x)

/-- Settles O57: a tick writes both timers and nothing else, each with its decrement. -/
theorem tickDecrementsBothTimers : Obligations.TickDecrementsBothTimers :=
  fun s => ⟨tickTimers s, rfl, tickTimer_toNat s.dt, tickTimer_toNat s.st, keepsAllBut_tickTimers s⟩

/-! ### Key queries -/

/-- The codes in the order a sample's search meets them. -/
def KeySample.codes (q : KeySample) : List Key := (List.range 16).map fun d => Fin.ofNat 16 (q.choice.val + d)

theorem KeySample.anyPressedCode_eq (q : KeySample) : q.anyPressedCode = q.codes.find? q.isPressed := rfl

/-- The search meets every code: `k` is `(k - choice) mod 16` places behind the choice. -/
theorem KeySample.mem_codes (q : KeySample) (k : Key) : k ∈ q.codes := by
  refine List.mem_map.2 ⟨(k - q.choice).val, List.mem_range.2 (k - q.choice).isLt, ?_⟩
  apply Fin.ext
  simp only [Fin.ofNat, Fin.sub_def]
  omega

/-- The search meets the choice first. -/
theorem KeySample.codes_eq_cons (q : KeySample) : ∃ rest, q.codes = q.choice :: rest :=
  ⟨_, by rw [KeySample.codes, List.range_succ_eq_map, List.map_cons, Nat.add_zero, Fin.ofNat_val_eq_self]⟩

/-- Settles O53: the search meets every code, and the choice first. -/
theorem keyQueriesAgree : Obligations.KeyQueriesAgree := by
  refine ⟨fun _ _ => rfl, fun q => ?_, fun q k h => ?_, fun q k h => ?_⟩
  · simp [KeySample.anyPressedCode_eq, List.find?_eq_none, q.mem_codes]
  · exact List.find?_some h
  · obtain ⟨rest, hcodes⟩ := KeySample.codes_eq_cons { q with choice := k }
    rw [KeySample.anyPressedCode_eq, hcodes]
    exact List.find?_cons_of_pos h

/-! ### Skips on a key -/

/-- The effect of a key skip on the test `c` of the sample: `PC`, the port, and nothing else. -/
theorem keySkip_effect (s : State) (p : KeySample → Bool) :
    (∀ q rest, s.NextSample q rest → (s.sampleKeys.skipIf (p s.keySample)).keypad.given = rest ∧
      (p q = true → (s.sampleKeys.skipIf (p s.keySample)).pc = s.pc + 4#16) ∧
      (p q = false → (s.sampleKeys.skipIf (p s.keySample)).pc = s.pc + 2#16)) ∧
    (s.sampleKeys.skipIf (p s.keySample)).keypad.taken = s.keypad.taken + 1 ∧
    KeepsAllBut [.pc, .keypad] s (s.sampleKeys.skipIf (p s.keySample)) := by
  refine ⟨fun q rest hnext => ?_, rfl, keepsAllBut_sampleKeys_skipIf s _⟩
  obtain ⟨rfl, rfl⟩ := State.nextSample_iff.1 hnext
  exact ⟨rfl, fun h => by simp [h], fun h => by simp [h]⟩

/-- Settles O52: the sample is the port's next one, and a code above 15 raises the fatal error. -/
theorem keySkipsSampleTheKeypad : Obligations.KeySkipsSampleTheKeypad := by
  refine ⟨fun x => ⟨?_, ?_⟩, fun s x k hk => ⟨_, exec_skp_of_key hk, keySkip_effect s fun q => q.isPressed k⟩,
    fun s x k hk => ⟨_, exec_sknp_of_key hk, ?_⟩,
    fun s x hlarge => ⟨exec_halts_of_raises (.skpIndex x hlarge), exec_halts_of_raises (.sknpIndex x hlarge)⟩⟩
  · exact decodeWord_of_ofXkk (decodeWord_ofXkk_skp x)
  · exact decodeWord_of_ofXkk (decodeWord_ofXkk_sknp x)
  · simpa using keySkip_effect s fun q => !q.isPressed k

/-! ### The key wait -/

/-- Settles O55: the instruction writes `run` and `PC` alone. -/
theorem keyWaitSuspendsTheCore : Obligations.KeyWaitSuspendsTheCore := by
  refine ⟨fun x => ?_, fun s x => ⟨_, exec_ldVxKey x s, rfl, rfl, keepsAllBut_setRun_advance s _⟩⟩
  exact decodeWord_of_ofXkk (decodeWord_ofXkk_ldVxKey x)

/-- Settles O56: a poll in a wait takes the port's next sample, and outside one it is the identity. -/
theorem keyPollCompletesTheWait : Obligations.KeyPollCompletesTheWait := by
  refine ⟨fun s x q rest k hrun hnext hkey => ?_, fun s x q rest hrun hnext hkey => ?_, fun s hrun => ?_⟩
  · obtain ⟨rfl, rfl⟩ := State.nextSample_iff.1 hnext
    refine ⟨s.resumed x k, ?_, reg_resumed s x k, rfl, keepsRegsBut_resumed s x k, rfl, rfl, keepsAllBut_resumed s x k⟩
    rw [perform, keyPoll_of_key hrun hkey]
  · obtain ⟨rfl, rfl⟩ := State.nextSample_iff.1 hnext
    refine ⟨s.sampleKeys, ?_, rfl, rfl, keepsAllBut_sampleKeys s⟩
    rw [perform, keyPoll_of_no_key hrun hkey]
  · have hnot : ∀ x, s.run ≠ .awaitingKey x := by
      rintro x hx
      obtain hr | ⟨cause, hr⟩ := hrun <;> simp [hr] at hx
    rw [perform, keyPoll_of_not_waiting hnot]

/-! ### Rejected loads -/

/-- Settles O59: of the three outcomes of a load, the length and `loaded` leave one. -/
theorem loadRejectsTooLargeAndSecondImages : Obligations.LoadRejectsTooLargeAndSecondImages := by
  refine ⟨fun s font image hl hlen => ⟨if_neg (Nat.not_le.2 hlen), ?_⟩, fun s font image hl => ?_⟩
  · obtain ⟨hloaded, -⟩ | ⟨-, hfits, -⟩ | ⟨-, -, hload⟩ := load_cases font image s
    · simp [hl] at hloaded
    · omega
    · exact hload
  · obtain ⟨-, hload⟩ | ⟨hunloaded, -⟩ | ⟨hunloaded, -⟩ := load_cases font image s
    · exact hload
    · simp [hl] at hunloaded
    · simp [hl] at hunloaded

end Sys2Proof.Machine
end
